-- ==== Sys2Proof/Word.lean ====
section
/-! DEFINITION. The word types of the xrtf LZFu core (spec 00_scope.md rule R8). Everything that the spec adds, shifts or masks
as bits is a bit vector here; lengths, cursors and counts are natural numbers (92_eei_decisions.md D32). -/

namespace Sys2Proof

/-- A byte: 8 bits, unsigned (R8). -/
abbrev Byte := BitVec 8

/-- A `u32`: a 32-bit unsigned value (R8). -/
abbrev Word32 := BitVec 32

/-- A ring index: 12 bits, arithmetic modulo 4096 (R22, R112). -/
abbrev Off12 := BitVec 12

/-- A buffer: a finite sequence of bytes, indexed from 0 (R9). -/
abbrev Buffer := List Byte

end Sys2Proof
end

