-- ==== Sys2Proof/Config.lean ====
section
/-! DEFINITION. The constants the source settles (00_scope.md rule R5) and the three parameters it leaves open (rule R6,
92_eei_decisions.md D19 and D25). All three are plain data that the machine's state carries, so that every claim about every state is
a claim about every choice of them. -/

namespace Sys2Proof

/-- `DICT_SIZE` (R5). -/
abbrev dictSize : Nat := 4096
/-- `SEED_LEN` (R5). -/
abbrev seedLen : Nat := 207
/-- `HDR_LEN` (R5). -/
abbrev hdrLen : Nat := 16
/-- `RUN_SLOTS` (R5). -/
abbrev runSlots : Nat := 8
/-- `MIN_MATCH` (R5). -/
abbrev minMatch : Nat := 2
/-- `MAX_MATCH` (R5). -/
abbrev maxMatch : Nat := 17
/-- `KW_MAX` (R5). -/
abbrev kwMax : Nat := 32
/-- `PARAM_MAX_DIGITS` (R5). -/
abbrev paramMaxDigits : Nat := 10
/-- The tag `COMPRESSED`, "LZFu" on the wire (R2, R71). -/
abbrev tagCompressed : Word32 := 0x75465A4C#32
/-- The tag `UNCOMPRESSED`, "MELA" on the wire (R2, R71). -/
abbrev tagUncompressed : Word32 := 0x414C454D#32
/-- The largest value a 32-bit size field holds (R131). -/
abbrev maxField : Nat := 0xFFFFFFFF

/-- A piece of `PARAM_CONVERT` (R6, D25): every value from `lo` to `hi` is reported as `scale * v + offset`. Scale 1 shifts an interval,
as a 32-bit wrap does; scale 0 reports one value for all of it, as a saturation does (DESIGN CHOICE, unsafe: log entry 8). -/
structure ParamPiece where
  /-- The least value of the piece. -/
  lo : Int
  /-- The greatest value of the piece. -/
  hi : Int
  /-- What a value is multiplied by. -/
  scale : Int
  /-- What is added to it. -/
  offset : Int
  deriving DecidableEq, Repr

/-- The parameters the source leaves open (R6). -/
structure Config where
  /-- `MAX_OUT`: the largest output buffer, in bytes, that the platform supplies to one command. -/
  maxOut : Nat
  /-- `MAX_IN_COMPRESSED`: the largest input that `COMPRESS` accepts in `COMPRESSED` mode. -/
  maxInCompressed : Nat
  /-- `PARAM_CONVERT` beyond 2^31 - 1 in magnitude: the first piece that holds a value says what is reported, and a value that no piece
holds is reported as it is. -/
  paramPieces : List ParamPiece
  deriving DecidableEq, Repr

/-- The range rule R6 gives each limit: `MAX_OUT` in 16 .. 2^64, `MAX_IN_COMPRESSED` in 0 .. 0xFFFFFFFF. `PARAM_CONVERT` is the identity
on -(2^31 - 1) .. 2^31 - 1 whatever its pieces are (`paramConvert`). -/
abbrev Config.wf (c : Config) : Prop :=
  16 ≤ c.maxOut ∧ c.maxOut ≤ 2 ^ 64 ∧ c.maxInCompressed ≤ maxField

/-- The defaults for simulation of rule R6: `PARAM_CONVERT` is the identity. -/
def Config.standard : Config := { maxOut := 2 ^ 32 + 3, maxInCompressed := maxField, paramPieces := [] }

end Sys2Proof
end

