-- ==== Sys2Proof/Syntax.lean ====
section
/-! DEFINITION. The instructions of the xrtf LZFu core: one constructor for each row of spec/opcode_table.json. The block's
"instructions" are the host commands (30_encoding.md rule R90), the container header and the tokens of the compressed stream
(rules R70 to R80), the token records that the lexer returns (rule R88) and the RTF syntax that the lexer reads (rules R86, R87).
The places an instruction is read from differ (a host command port, a header, a payload, a record, a text buffer): `Code` is an
instruction as it stands in one of those places. -/

namespace Sys2Proof

/-- The sub-causes of `LexError` (60_exceptions.md rule R211, rule R198). -/
inductive LexSub where
  | keywordTooLong
  | parameterTooLong
  | bufferUnderrun
  deriving DecidableEq, Repr

/-- One host command as the host hands it over (R90): the 8-bit command code and the operands. The spec gives the operands no bit
positions, so they stand beside the code as plain values (DESIGN CHOICE, unsafe: log entry 1). -/
structure HostCommand where
  /-- The command code. -/
  code : Byte
  /-- `crc_in` of `CRC32` or `mode` of `COMPRESS`; `none` where the host omits it. A value of 2^32 or more is no u32 (R218). -/
  arg : Option Nat
  /-- The lexer a lexer command names. -/
  lexer : Nat
  /-- `n` of `LEX_SKIP`, a signed integer. -/
  count : Int
  /-- `data`: the buffer `IN` or `LBUF`. -/
  data : Buffer
  deriving DecidableEq, Repr

/-- A lexer token record as the lexer builds it (R88): the kind code and the fields of every kind; a kind uses only its own. -/
structure Record where
  /-- The kind code, 0 .. 4. -/
  kind : Nat
  /-- `is_open` of `GROUP`. -/
  isOpen : Bool
  /-- `symbol` of `CONTROL_SYMBOL`. -/
  symbol : Byte
  /-- `keyword` of `CONTROL_WORD`. -/
  keyword : Buffer
  /-- `param` of `CONTROL_WORD`. -/
  param : Option Int
  /-- `bytes` of `TEXT`. -/
  bytes : Buffer
  deriving DecidableEq, Repr

/-- The instructions, one constructor for each row of spec/opcode_table.json, in the table's order. -/
inductive Instr where
  /-- `HDR LZFu`: a container header whose `comp_type` is `COMPRESSED` (R70, R71). -/
  | hdrLZFu (compSize rawSize crc : Word32)
  /-- `HDR MELA`: a container header whose `comp_type` is `UNCOMPRESSED` (R70, R71). -/
  | hdrMELA (compSize rawSize crc : Word32)
  /-- `HDR other`: a container header with any other `comp_type` (R71, R122). -/
  | hdrOther (compSize rawSize compType crc : Word32)
  /-- `CTRL`: the control byte of a run (R75). -/
  | ctrl (k : Byte)
  /-- `LIT`: a literal body (R76). -/
  | lit (b : Byte)
  /-- `REF`: a reference body whose offset is not the write cursor (R77, R78). -/
  | ref (off : Off12) (code : BitVec 4)
  /-- `EOS`: a reference body whose offset is the write cursor (R79). -/
  | eos (off : Off12) (code : BitVec 4)
  /-- `CRC32(crc_in, data)`, code 0x01 (R105). -/
  | crc32 (crcIn : Word32) (data : Buffer)
  /-- `COMPRESS(mode, data)`, code 0x02 (R130). -/
  | compress (mode : Word32) (data : Buffer)
  /-- `DECOMPRESS(data)`, code 0x03 (R160). -/
  | decompress (data : Buffer)
  /-- `PARSE_HEADER(data)`, code 0x04 (R123). -/
  | parseHeader (data : Buffer)
  /-- `LEX_OPEN(data)`, code 0x05 (R180). -/
  | lexOpen (data : Buffer)
  /-- `LEX_NEXT(lexer)`, code 0x06 (R181). -/
  | lexNext (lexer : Nat)
  /-- `LEX_SKIP(lexer, n)`, code 0x07 (R192). -/
  | lexSkip (lexer : Nat) (n : Int)
  /-- `LEX_CLOSE(lexer)`, code 0x08 (R193). -/
  | lexClose (lexer : Nat)
  /-- `TOKEN END`: the record of kind 0 (R88, R182). -/
  | tokenEnd
  /-- `TOKEN GROUP`: the record of kind 1 (R88, R183). -/
  | tokenGroup (isOpen : Bool)
  /-- `TOKEN CONTROL_SYMBOL`: the record of kind 2 (R88, R185). -/
  | tokenControlSymbol (symbol : Byte)
  /-- `TOKEN CONTROL_WORD`: the record of kind 3 (R88, R190). -/
  | tokenControlWord (keyword : Buffer) (param : Option Int)
  /-- `TOKEN TEXT`: the record of kind 4 (R88, R194). -/
  | tokenText (bytes : Buffer)
  /-- `RTF {`: the group-open byte (R87, R183). -/
  | rtfOpen
  /-- `RTF }`: the group-close byte (R87, R183). -/
  | rtfClose
  /-- `RTF \x`: a control symbol (R87, R185). -/
  | rtfControlSymbol (symbol : Byte)
  /-- `RTF \word[-][digits][ ]`: a control word (R87, R186 to R190). -/
  | rtfControlWord (keyword : Buffer) (neg : Bool) (digits : Buffer) (space : Bool)
  /-- `RTF CR / LF`: a line break outside a control token (R87, R191). -/
  | rtfLineBreak (c : Byte)
  /-- `RTF text`: a maximal run of ordinary bytes (R87, R194). -/
  | rtfText (bytes : Buffer)
  deriving DecidableEq, Repr

/-- An instruction as it stands in the place it is read from. What a bit pattern means depends on the place: a token's length and
kind on the control bit of its slot, and `REF` against `EOS` on the decoder's write cursor (R79, R81). -/
inductive Code where
  /-- On the host's command port (R90). -/
  | command (c : HostCommand)
  /-- At the start of a container (R70): the bytes from index 0 on. -/
  | header (bytes : Buffer)
  /-- Where a control byte is due (R74): the payload bytes from there on. -/
  | control (bytes : Buffer)
  /-- Where a token body is due (R75, R79): its control bit, the decoder's `WCUR`, the payload bytes from there on. -/
  | body (bit : Bool) (wcur : Off12) (bytes : Buffer)
  /-- In the lexer's result (R88). -/
  | record (r : Record)
  /-- At the lexer's read cursor (R87): the bytes of `LBUF` from there on. -/
  | rtf (bytes : Buffer)
  deriving DecidableEq, Repr

/-- Why the decoder reads no instruction. -/
inductive Reject where
  /-- The command code is not one of 0x01 .. 0x08 (R90, U1). -/
  | notACommand (code : Byte)
  /-- A u32 operand is omitted and has no default (R218). -/
  | missingOperand
  /-- A u32 operand is 2^32 or more (R218). -/
  | operandNotU32
  /-- Fewer bytes stand there than the instruction has (R121, R163, R169). -/
  | tooShort
  /-- The kind code is not one of 0 .. 4 (R88). -/
  | unknownKind (kind : Nat)
  /-- No byte of the text buffer is left (R182). -/
  | endOfBuffer
  /-- The control token is an error (R185 to R188); `consumed` bytes were taken before the error was found (R198). -/
  | lexical (sub : LexSub) (consumed : Nat)
  deriving DecidableEq, Repr

end Sys2Proof
end

