-- ==== Sys2Proof/Machine/Operands.lean ====
section
/-! DEFINITION. The operand forms of the wire formats: little-endian header fields (20_memory.md rule R52, 30_encoding.md rule R70),
the two-byte reference body (rules R77, R78), the control byte's bits (rule R75), the byte classes of the lexer (rule R86), decimal
digits (45_lexer.md rules R188, R189) and the fields of a token record (rule R88). -/

namespace Sys2Proof

/-! ### Header fields (R52, R70) -/

/-- `B[a] | B[a+1] << 8 | B[a+2] << 16 | B[a+3] << 24` for the four bytes of a little-endian field, lowest index first (R52). -/
def le32 (b0 b1 b2 b3 : Byte) : Word32 := b3 ++ b2 ++ b1 ++ b0

/-- The four bytes a write of `v` stores, lowest index first: `v[7:0], v[15:8], v[23:16], v[31:24]` (R52). -/
def le32Bytes (v : Word32) : Buffer :=
  [v.extractLsb' 0 8, v.extractLsb' 8 8, v.extractLsb' 16 8, v.extractLsb' 24 8]

/-- The 16 bytes `HdrEncode(cs, rs, ct, crc)` writes at `OUT[0..16)` (R70, R120). -/
def headerBytes (cs rs ct crc : Word32) : Buffer :=
  le32Bytes cs ++ le32Bytes rs ++ le32Bytes ct ++ le32Bytes crc

/-! ### Reference bodies (R77, R78) and control bits (R75) -/

/-- `offset[11:0] = B0 : B1[7:4]` (R77). -/
def refOffset (b0 b1 : Byte) : Off12 := b0 ++ b1.extractLsb' 4 4

/-- `code[3:0] = B1[3:0]` (R77). -/
def refCode (b1 : Byte) : BitVec 4 := b1.extractLsb' 0 4

/-- `B0 = offset[11:4]` (R77). -/
def refHigh (off : Off12) : Byte := off.extractLsb' 4 8

/-- `B1 = offset[3:0] : code[3:0]` (R77). -/
def refLow (off : Off12) (code : BitVec 4) : Byte := off.extractLsb' 0 4 ++ code

/-- The match length of a length code: `code + 2`, so 2 .. 17 (R78). -/
def matchLength (code : BitVec 4) : Nat := code.toNat + 2

/-- The length code of a match length: `(L - 2)[3:0]` (R142). -/
def lengthCode (len : Nat) : BitVec 4 := BitVec.ofNat 4 (len - 2)

/-- `CTRL[i]`: the kind of token `i` of the run, `true` for a reference (R75). -/
def ctrlBit (c : Byte) (i : Nat) : Bool := c.getLsbD i

/-- `CTRL[i] <- 1` (R140, R142). -/
def setCtrlBit (c : Byte) (i : Nat) : Byte := c ||| (1#8 <<< i)

/-! ### Byte classes (R86) -/

/-- `OPEN`. -/
abbrev byteOpen : Byte := 0x7B#8
/-- `CLOSE`. -/
abbrev byteClose : Byte := 0x7D#8
/-- `BACKSLASH`. -/
abbrev byteBackslash : Byte := 0x5C#8
/-- CR, of the class `LINEBREAK`. -/
abbrev byteCR : Byte := 0x0D#8
/-- LF, of the class `LINEBREAK`. -/
abbrev byteLF : Byte := 0x0A#8
/-- `MINUS`. -/
abbrev byteMinus : Byte := 0x2D#8
/-- `SPACE`. -/
abbrev byteSpace : Byte := 0x20#8

/-- `LINEBREAK`: CR or LF (R86). -/
def isLineBreak (c : Byte) : Bool := c == byteCR || c == byteLF

/-- `LETTER`: 0x41 .. 0x5A or 0x61 .. 0x7A, ASCII only (R86, D20). -/
def isLetter (c : Byte) : Bool :=
  (0x41 ≤ c.toNat && c.toNat ≤ 0x5A) || (0x61 ≤ c.toNat && c.toNat ≤ 0x7A)

/-- `DIGIT`: 0x30 .. 0x39 (R86). -/
def isDigit (c : Byte) : Bool := 0x30 ≤ c.toNat && c.toNat ≤ 0x39

/-- `ORDINARY`: not `OPEN`, `CLOSE`, `BACKSLASH` or `LINEBREAK` (R86). -/
def isOrdinary (c : Byte) : Bool :=
  !(c == byteOpen || c == byteClose || c == byteBackslash || isLineBreak c)

/-! ### Parameters (R188, R189) -/

/-- The decimal value of digits, the leftmost the most significant: `PVAL <- PVAL * 10 + (d - 0x30)` for each (R188). -/
def decimalValue (digits : Buffer) : Nat :=
  digits.foldl (fun v d => v * 10 + (d.toNat - 0x30)) 0

/-- What a list of pieces reports for a value: the first piece that holds it decides, and with none it is reported as it is. -/
def convertBy : List ParamPiece → Int → Int
  | [], v => v
  | p :: t, v => if p.lo ≤ v ∧ v ≤ p.hi then p.scale * v + p.offset else convertBy t v

/-- `PARAM_CONVERT` (R6, D25): the identity on -(2^31 - 1) .. 2^31 - 1, the platform's pieces beyond. -/
def paramConvert (cfg : Config) (v : Int) : Int :=
  if -(2 ^ 31 - 1) ≤ v ∧ v ≤ 2 ^ 31 - 1 then v else convertBy cfg.paramPieces v

/-- The parameter of a control word (R189): absent when no digit was read, whatever the sign. -/
def paramValue (cfg : Config) (neg : Bool) (digits : Buffer) : Option Int :=
  if digits.isEmpty then none
  else
    let v : Int := decimalValue digits
    some (paramConvert cfg (if neg then -v else v))

/-! ### Token records (R88) -/

/-- The record with kind code `kind` and every field blank. -/
def Record.blank (kind : Nat) : Record :=
  { kind, isOpen := false, symbol := 0, keyword := [], param := none, bytes := [] }

/-- The `END` record. -/
def recordEnd : Record := Record.blank 0
/-- The `GROUP` record. -/
def recordGroup (isOpen : Bool) : Record := { Record.blank 1 with isOpen }
/-- The `CONTROL_SYMBOL` record. -/
def recordControlSymbol (symbol : Byte) : Record := { Record.blank 2 with symbol }
/-- The `CONTROL_WORD` record. -/
def recordControlWord (keyword : Buffer) (param : Option Int) : Record := { Record.blank 3 with keyword, param }
/-- The `TEXT` record. -/
def recordText (bytes : Buffer) : Record := { Record.blank 4 with bytes }

end Sys2Proof
end

