-- ==== Sys2Proof/Machine/State.lean ====
section
/-! DEFINITION. The state of the block (10_state.md) as plain data, what a command answers (60_exceptions.md), and why a step can
stop. A register that the spec calls "unwritten" until a rule writes it, or that does not exist before its command starts, is an
`Option`: "holds no value" is the spec's own value of it (10_state.md rules R34, R22; 70_reset_and_hazards.md rule R231). -/

namespace Sys2Proof.Machine

/-! ### The dictionary unit (R22) -/

/-- Ring memory: the listed cells in rising order of address, none equal to what an unlisted address reads as. -/
abbrev Memory := List Host.Cell

/-- A dictionary unit (R22). It exists only while its command runs. -/
structure Dict where
  /-- `RING[0..4095]`. -/
  ring : Memory
  /-- `WCUR`: the index the next pushed byte is written to. -/
  wcur : Off12
  /-- `FILL`: how many ring bytes hold seed or pushed data, capped at 4096. -/
  fill : BitVec 13
  deriving DecidableEq, Repr

/-! ### The CRC engine (R24, R105) -/

/-- The registers of the CRC engine while a `CRC32` command runs. -/
structure Crc where
  /-- `IN`. -/
  inp : Buffer
  /-- The index `i` of the next byte to fold (R105). -/
  pos : Nat
  /-- `CRC_ACC`. -/
  acc : Word32
  deriving DecidableEq, Repr

/-! ### The compressor (R25, R26) -/

/-- `CPHASE` (R26). -/
inductive CPhase where
  | idle | check | runStart | search | emit | finalize | done
  deriving DecidableEq, Repr

/-- The registers of a compressor while a `COMPRESS` command runs (R25). `N` is `inp.length` and `OP` is `out.length`. -/
structure Comp where
  /-- `MODE`. -/
  mode : Word32
  /-- `IN`. -/
  inp : Buffer
  /-- `IP`: the next input byte not yet consumed by a token. -/
  ip : Nat
  /-- `OUT`. -/
  out : Buffer
  /-- `CTRL`: the control byte of the run being built. -/
  ctrl : Option Byte
  /-- `CTRL_POS`: where in `OUT` it goes. -/
  ctrlPos : Option Nat
  /-- `SLOT`: the next token slot of the run. -/
  slot : Option Nat
  /-- `FINISHED`: the EOS reference has been emitted. -/
  finished : Bool
  /-- `W0`: the write cursor when the search started. -/
  w0 : Option Off12
  /-- `FILL0`: the fill when the search started. -/
  fill0 : Option (BitVec 13)
  /-- `CAP`: `min(17, N - IP)`. -/
  cap : Option Nat
  /-- `BEST`: the best match length so far. -/
  best : Option Nat
  /-- `BEST_OFF`: the ring index of the best match. -/
  bestOff : Option Off12
  /-- `K`: the candidate counter. -/
  k : Option Nat
  /-- `M`: the match length of the current candidate. -/
  m : Option Nat
  /-- The dictionary unit of `COMPRESSED` mode. -/
  dict : Option Dict
  /-- `CRC_ACC`: 0 when its command starts (R24), and 0 again at finalize (R25, R145). -/
  crcAcc : Word32
  /-- `CPHASE`. -/
  phase : CPhase
  deriving DecidableEq, Repr

/-! ### The decompressor (R27, R28) -/

/-- `DPHASE` (R28). -/
inductive DPhase where
  | idle | header | ctrl | token | copy | trail | check | done
  deriving DecidableEq, Repr

/-- The two commands the decompressor's registers serve (R27). -/
inductive DCommand where
  | decompress | parseHeader
  deriving DecidableEq, Repr

/-- The four header fields (R27, R70). -/
structure Header where
  /-- `H_COMP_SIZE`. -/
  compSize : Word32
  /-- `H_RAW_SIZE`. -/
  rawSize : Word32
  /-- `H_COMP_TYPE`. -/
  compType : Word32
  /-- `H_CRC`. -/
  crc : Word32
  deriving DecidableEq, Repr

/-- The registers of a decompressor while a `DECOMPRESS` or `PARSE_HEADER` command runs (R27). `N` is `inp.length` and `OP` is
`out.length`. -/
structure Dec where
  /-- Which of the two commands runs. -/
  cmd : DCommand
  /-- `IN`. -/
  inp : Buffer
  /-- `H_COMP_SIZE`, `H_RAW_SIZE`, `H_COMP_TYPE`, `H_CRC`: unwritten until the header parse, which writes all four. -/
  hdr : Option Header
  /-- `IP`: the next payload byte to read. -/
  ip : Option Nat
  /-- `OUT`. -/
  out : Buffer
  /-- `CTRL`: the current control byte. -/
  ctrl : Option Byte
  /-- `BIT`: the next control bit. -/
  bit : Option Nat
  /-- `REF_HI`. -/
  refHi : Option Byte
  /-- `REF_LO`. -/
  refLo : Option Byte
  /-- `COPY_OFF`. -/
  copyOff : Option Off12
  /-- `COPY_LEN`. -/
  copyLen : Option Nat
  /-- `COPY_I`. -/
  copyI : Option Nat
  /-- `EOS_SEEN`. -/
  eosSeen : Bool
  /-- The dictionary unit of a `COMPRESSED` stream. -/
  dict : Option Dict
  /-- `CRC_ACC`. -/
  crcAcc : Word32
  /-- `DPHASE`. -/
  phase : DPhase
  deriving DecidableEq, Repr

/-- A codec or CRC command in progress. -/
inductive Engine where
  | crc (c : Crc)
  | comp (c : Comp)
  | dec (d : Dec)
  deriving DecidableEq, Repr

/-! ### The lexer (R29, R30) -/

/-- `LSTATE` (R29). -/
inductive LState where
  | ready | exhausted | failed
  deriving DecidableEq, Repr

/-- `LPHASE` (R30). -/
inductive LPhase where
  | scan | ctlFirst | keyword | sign | digits | space
  deriving DecidableEq, Repr

/-- The transient registers of a lexer while one `LEX_NEXT` runs (R30). `KW_LEN` is the length of `KW`. -/
structure LexRun where
  /-- MODEL: the tag of the host command that runs. -/
  tag : Nat
  /-- `TSTART`: where pending text began. -/
  tstart : Nat
  /-- `KW[0..KW_LEN)`. -/
  kw : Option Buffer
  /-- `NEG`. -/
  neg : Option Bool
  /-- `PVAL`. -/
  pval : Option Nat
  /-- `PDIG`. -/
  pdig : Option Nat
  /-- `LPHASE`. -/
  lphase : LPhase
  /-- MODEL: the record of the token found, on its way to the host (R88; DESIGN CHOICE, unsafe: log entry 9). -/
  result : Option Record
  deriving DecidableEq, Repr

/-- A lexer instance (R29). `LN` is `buf.length`. -/
structure Lexer where
  /-- `LBUF`: the borrowed view. -/
  buf : Buffer
  /-- `LCUR`: the read cursor. -/
  cur : Nat
  /-- `LSTATE`. -/
  state : LState
  /-- The transient registers while a `LEX_NEXT` runs. -/
  run : Option LexRun
  deriving DecidableEq, Repr

/-! ### Responses (R88, R90, R91, R211) -/

/-- A token as the host receives it (R88). -/
inductive Token where
  | endOfStream
  | group (isOpen : Bool)
  | controlSymbol (symbol : Byte)
  | controlWord (keyword : Buffer) (param : Option Int)
  | text (bytes : Buffer)
  deriving DecidableEq, Repr

/-- The sub-causes of `MalformedHeader` (R211). -/
inductive HeaderSub where
  | tooShort | unknownCompType
  deriving DecidableEq, Repr

/-- The sub-causes of `InvalidArgument` (R211). -/
inductive ArgumentSub where
  | unknownMode | skipNonPositive | skipTooLong | skipAfterExhausted | lexerFailed
  deriving DecidableEq, Repr

/-- The sub-causes of `InputTooLarge` (R211). -/
inductive SizeSub where
  | sizeField | outputLimit | inputLimit
  deriving DecidableEq, Repr

/-- The sub-causes of `InputUnderrun` (R211). -/
inductive UnderrunSub where
  | controlByte | literalBody | referenceBody | shortOutput
  deriving DecidableEq, Repr

/-- The errors of the block: the seven kinds with their sub-causes (R211). -/
inductive Err where
  | malformedHeader (sub : HeaderSub)
  | invalidArgument (sub : ArgumentSub)
  | inputTooLarge (sub : SizeSub)
  | inputUnderrun (sub : UnderrunSub)
  | outputOverflow
  | checksumMismatch
  | lexError (sub : LexSub)
  deriving DecidableEq, Repr

/-- The success result of a command (R90). -/
inductive Result where
  /-- A u32 (`CRC32`). -/
  | word (w : Word32)
  /-- Bytes (`COMPRESS`, `DECOMPRESS`, `LEX_SKIP`). -/
  | bytes (b : Buffer)
  /-- The four header fields (`PARSE_HEADER`). -/
  | header (h : Header)
  /-- A lexer instance (`LEX_OPEN`). -/
  | lexer (id : Nat)
  /-- A token (`LEX_NEXT`). -/
  | token (t : Token)
  /-- Nothing (`LEX_CLOSE`). -/
  | nothing
  deriving DecidableEq, Repr

/-- The one response of a command: `OK(result)` or `ERR(kind, sub)` (R91). -/
inductive Response where
  | ok (r : Result)
  | err (e : Err)
  deriving DecidableEq, Repr

/-! ### The host's moves -/

/-- A move of the host. `tag` is the host's name for the command, under which it gets the response (DESIGN CHOICE, unsafe: log entry
2). -/
inductive HostMove where
  /-- Issue a command that runs to completion as one transaction (20_memory.md rule R59, 70_reset_and_hazards.md rule R243). -/
  | run (tag : Nat) (c : HostCommand)
  /-- Issue a command whose engine then takes its steps one by one, other commands' steps between them (60_exceptions.md rule
  R227). -/
  | start (tag : Nat) (c : HostCommand)
  /-- Let the engine of a started command take its next step. -/
  | advance (tag : Nat)
  deriving DecidableEq, Repr

/-! ### The state -/

/-- The state of the block with its host port. The ROMs `SEED_ROM` and `CRC_TABLE` are read-only with fixed content (R20, R21) and
stand as constants in Machine/Rom.lean. -/
structure State where
  /-- The parameters `MAX_OUT`, `MAX_IN_COMPRESSED` and `PARAM_CONVERT` (00_scope.md rule R6). Nothing changes them (DESIGN CHOICE,
unsafe: log entry 10). -/
  cfg : Config
  /-- MODEL: the host's moves not yet taken, next first. -/
  moves : List HostMove
  /-- MODEL: the tag of the command that the current instruction belongs to. -/
  focus : Nat
  /-- The codec and CRC commands in progress, each with its engine's registers, by tag, tags rising. -/
  engines : List (Nat × Engine)
  /-- The open lexer instances by number, numbers rising (R29). -/
  lexers : List (Nat × Lexer)
  /-- MODEL: the number the next `LEX_OPEN` gives (DESIGN CHOICE, unsafe: log entry 7). -/
  nextLexer : Nat
  /-- MODEL: the responses the host has received, with their commands' tags, oldest first (R91; DESIGN CHOICE, unsafe: log entry 20). -/
  responses : List (Nat × Response)
  deriving DecidableEq, Repr

/-- The state after reset (70_reset_and_hazards.md rules R230, R231): no command runs, so every phase register is `IDLE` and no
dictionary unit exists, and no lexer instance exists. The parameters have their defaults (R6); the first lexer instance is number 1. -/
def State.reset : State :=
  { cfg := Config.standard
    moves := []
    focus := 0
    engines := []
    lexers := []
    nextLexer := 1
    responses := [] }

/-! ### Why a step stops -/

/-- The registers that hold no value until a rule writes them (R34). -/
inductive RegName where
  | hdr | ip | ctrl | bit | dict | ctrlPos | slot | best | bestOff
  deriving DecidableEq, Repr

/-- The buffer spaces (R50). -/
inductive Space where
  | inBuffer | outBuffer | lbuf
  deriving DecidableEq, Repr

/-- The faults of the model. The spec calls each a model fault: it cannot happen in a run from reset (R219). -/
inductive Fault where
  /-- A rule read a register that no rule has written (R34, U4). Raised by an engine step on a state no run reaches. SAFE. -/
  | unwritten (r : RegName)
  /-- A rule used an index outside a buffer (R54, U4). Raised by an engine step on a state no run reaches. SAFE. -/
  | outsideBuffer (s : Space)
  /-- A whole command did not end within its bound, or its engine met an instruction that no place of it holds. R175 says that a
  command ends. Raised only by the loops that run a whole command. SAFE. -/
  | runaway
  deriving DecidableEq, Repr

/-- The refusals of the model: moves that the spec says the host does not make (R218), and instructions outside their place. -/
inductive Refusal where
  /-- No meaning written yet: exec's arm names the mnemonic. SAFE. -/
  | notModelled (mnemonic : String)
  /-- The command code is none of 0x01 .. 0x08: "the model refuses it" (R90, R218, U1). Raised by step. SAFE. -/
  | notACommand (code : Byte)
  /-- A u32 operand is omitted or 2^32 or more: an operand of the wrong type (R218). Raised by step. SAFE. -/
  | badOperand
  /-- The lexer instance named is closed or was never opened (R218, U17). Raised by the lexer commands. SAFE. -/
  | noSuchLexer (id : Nat)
  /-- A `LEX_NEXT` is in progress on the lexer instance named (R229, U17). Raised by the lexer commands. SAFE. -/
  | lexerBusy (id : Nat)
  /-- The host starts a command under the tag of one in progress. Raised by step. SAFE. -/
  | tagInUse (tag : Nat)
  /-- The host lets a command take a step that is not in progress. Raised by step. SAFE. -/
  | nothingInProgress (tag : Nat)
  /-- A header, token or syntax element was executed where the command in focus has no place for it: outside a running command it is
  data, not an instruction (R61, R81). Raised by the meanings of those elements. SAFE. -/
  | outOfPlace
  /-- A token record's kind code is none of 0 .. 4 (R88). Raised by an engine step on a state no run reaches. SAFE. -/
  | unknownKind (kind : Nat)
  deriving DecidableEq, Repr

/-- What one engine step answers: the registers after it, the command's response with the instance's registers after it, a model
fault, or that the engine has no place for the instruction. -/
inductive Tick (σ : Type) where
  | run (s : σ)
  | done (s : σ) (r : Response)
  | fault (f : Fault)
  | outOfPlace
  deriving DecidableEq, Repr

/-- What an engine does next: read an instruction that stands in a place, or a stage of its own. -/
inductive Next where
  | read (c : Code)
  | inner
  | fault (f : Fault)
  deriving DecidableEq, Repr

end Sys2Proof.Machine
end

