-- ==== Sys2Proof/Machine/Ops.lean ====
section
/-! DEFINITION. The operations every engine shares: ring memory, the dictionary unit (41_dictionary.md), the CRC (40_crc32.md), the
tables of engines and lexers, the end of a command and the raising of an error (60_exceptions.md rule R210), and the codes of errors
and tokens (rules R211, R88). -/

namespace Sys2Proof.Machine

/-! ### Ring memory -/

/-- What an unlisted address reads as: the command-start content 0x00 of a position that holds no seed byte (R110, D10; log entry 4). -/
def Memory.unlisted : Byte := 0x00#8

/-- The byte at an address. -/
def Memory.read : Memory → Nat → Byte
  | [], _ => Memory.unlisted
  | (k, b) :: t, a => if a = k then b else Memory.read t a

/-- Write a byte, keeping the addresses rising and listing no cell equal to what an unlisted address reads as. -/
def Memory.write : Memory → Nat → Byte → Memory
  | [], a, b => if b = Memory.unlisted then [] else [(a, b)]
  | (k, c) :: t, a, b =>
    if a < k then (if b = Memory.unlisted then (k, c) :: t else (a, b) :: (k, c) :: t)
    else if a = k then (if b = Memory.unlisted then t else (a, b) :: t)
    else (k, c) :: Memory.write t a b

/-- The canonical form: addresses strictly rising, no cell equal to what an unlisted address reads as. -/
def Memory.wf : Memory → Bool
  | [] => true
  | [(_, b)] => b != Memory.unlisted
  | (k, b) :: (k', b') :: t => b != Memory.unlisted && decide (k < k') && Memory.wf ((k', b') :: t)

/-! ### The dictionary unit (R110 to R113) -/

/-- `DictNew()` (R110): the seed at 0 .. 206, 0x00 at 207 .. 4095, `WCUR = FILL = 207`. -/
def Dict.new : Dict :=
  { ring := seedRom.zipIdx.map (fun p => (p.2, p.1)), wcur := BitVec.ofNat 12 seedLen, fill := BitVec.ofNat 13 seedLen }

/-- `DictPush(b)` (R111). -/
def Dict.push (d : Dict) (b : Byte) : Dict :=
  { ring := d.ring.write d.wcur.toNat b
    wcur := d.wcur + 1
    fill := if d.fill.toNat < dictSize then d.fill + 1 else d.fill }

/-- `DictRead(o)` (R112). -/
def Dict.read (d : Dict) (o : Off12) : Byte := d.ring.read o.toNat

/-- Push the bytes of a sequence in order. -/
def Dict.pushAll (d : Dict) (bs : Buffer) : Dict := bs.foldl Dict.push d

/-! ### The CRC (R102, R103) -/

/-- `CrcStep(c, b)` (R102). -/
def crcStep (c : Word32) (b : Byte) : Word32 :=
  crcTable.getD ((c ^^^ b.setWidth 32).extractLsb' 0 8).toNat 0 ^^^ (c >>> 8)

/-- `Crc(c, B)` (R103): fold the bytes left to right. -/
def crc (c : Word32) (bs : Buffer) : Word32 := bs.foldl crcStep c

/-! ### Tables by number -/

/-- The entry under a number. -/
def Table.get {α : Type} : List (Nat × α) → Nat → Option α
  | [], _ => none
  | (k, v) :: t, n => if n = k then some v else Table.get t n

/-- Set the entry under a number, keeping the numbers rising. -/
def Table.put {α : Type} : List (Nat × α) → Nat → α → List (Nat × α)
  | [], n, v => [(n, v)]
  | (k, w) :: t, n, v =>
    if n < k then (n, v) :: (k, w) :: t else if n = k then (n, v) :: t else (k, w) :: Table.put t n v

/-- Remove the entry under a number. -/
def Table.del {α : Type} (t : List (Nat × α)) (n : Nat) : List (Nat × α) := t.filter (fun p => p.1 != n)

/-! ### Updates of the state -/

/-- Take the host's next move: it leaves the port, and its command comes into focus. -/
def State.take (s : State) (rest : List HostMove) (tag : Nat) : State := { s with moves := rest, focus := tag }

/-- Put an engine's registers under the tag in focus. -/
def State.putEngine (s : State) (e : Engine) : State := { s with engines := Table.put s.engines s.focus e }

/-- Put a lexer instance's registers. -/
def State.putLexer (s : State) (id : Nat) (l : Lexer) : State := { s with lexers := Table.put s.lexers id l }

/-- End a lexer instance and its borrow (R193). -/
def State.dropLexer (s : State) (id : Nat) : State := { s with lexers := Table.del s.lexers id }

/-- Give a lexer instance the next number (R180). -/
def State.openLexer (s : State) (l : Lexer) : State :=
  { s with lexers := Table.put s.lexers s.nextLexer l, nextLexer := s.nextLexer + 1 }

/-- End the command in focus: the host gets its one response (R91), and the per-command registers are discarded, so that its engine
is `IDLE` again (R35). -/
def State.finish (s : State) (r : Response) : State :=
  { s with engines := Table.del s.engines s.focus, responses := s.responses ++ [(s.focus, r)] }

/-- RAISING AN ERROR (R210): nothing more of the command is performed, the response is `ERR(kind, sub)`, `OUT` and every per-command
register are discarded, and the engine's phase register returns to `IDLE`. No state is saved and there is no return from it: the
handler is the host, and the error ends the command (R220, R221). -/
def State.raise (s : State) (e : Err) : State := s.finish (.err e)

/-- The lexer's side of the end of a `LEX_NEXT`: its transient registers do not survive it (R30, R210); its instance registers do. -/
def Lexer.endNext (l : Lexer) : Lexer := { l with run := none }

/-! ### Codes (R88, R211) -/

/-- The kind code of an error (R211). -/
def Err.kindCode : Err → Nat
  | .malformedHeader _ => 1
  | .invalidArgument _ => 2
  | .inputTooLarge _ => 3
  | .inputUnderrun _ => 4
  | .outputOverflow => 5
  | .checksumMismatch => 6
  | .lexError _ => 7

/-- The sub code of an error (R211). -/
def Err.subCode : Err → Nat
  | .malformedHeader .tooShort => 1
  | .malformedHeader .unknownCompType => 2
  | .invalidArgument .unknownMode => 1
  | .invalidArgument .skipNonPositive => 2
  | .invalidArgument .skipTooLong => 3
  | .invalidArgument .skipAfterExhausted => 4
  | .invalidArgument .lexerFailed => 5
  | .inputTooLarge .sizeField => 1
  | .inputTooLarge .outputLimit => 2
  | .inputTooLarge .inputLimit => 3
  | .inputUnderrun .controlByte => 1
  | .inputUnderrun .literalBody => 2
  | .inputUnderrun .referenceBody => 3
  | .inputUnderrun .shortOutput => 4
  | .outputOverflow => 0
  | .checksumMismatch => 0
  | .lexError .keywordTooLong => 1
  | .lexError .parameterTooLong => 2
  | .lexError .bufferUnderrun => 3

/-- `ERR(kind, sub)` of a response as its two codes; (0, 0) for `OK`: a kind code of 0 is never an error (R211). -/
def Response.errCodes : Response → Nat × Nat
  | .ok _ => (0, 0)
  | .err e => (e.kindCode, e.subCode)

/-- The kind code of a token (R88). -/
def Token.kindCode : Token → Nat
  | .endOfStream => 0
  | .group _ => 1
  | .controlSymbol _ => 2
  | .controlWord _ _ => 3
  | .text _ => 4

end Sys2Proof.Machine
end

