-- ==== Sys2Proof/Machine/Flags.lean ====
section
/-! DEFINITION. The status flags of the block (10_state.md rule R31) and its phase registers as a register of every engine, in use or
not (70_reset_and_hazards.md rule R230). The block has no condition codes. -/

namespace Sys2Proof.Machine

/-- Ring full: `FILL = 4096`, computed and not stored (R23, R31). -/
def ringFull (fill : BitVec 13) : Bool := fill.toNat == dictSize

/-- `FINISHED` of the engine under a tag: 0 where no `COMPRESS` is in progress (R31, R230). -/
def State.finished (s : State) (tag : Nat) : Bool :=
  match Table.get s.engines tag with
  | some (.comp c) => c.finished
  | _ => false

/-- `EOS_SEEN` of the engine under a tag: 0 where no `DECOMPRESS` is in progress (R31, R230). -/
def State.eosSeen (s : State) (tag : Nat) : Bool :=
  match Table.get s.engines tag with
  | some (.dec d) => d.eosSeen
  | _ => false

/-- `CPHASE` of the engine under a tag: `IDLE` between commands (R26). -/
def State.cphase (s : State) (tag : Nat) : CPhase :=
  match Table.get s.engines tag with
  | some (.comp c) => c.phase
  | _ => .idle

/-- `DPHASE` of the engine under a tag: `IDLE` between commands (R28). -/
def State.dphase (s : State) (tag : Nat) : DPhase :=
  match Table.get s.engines tag with
  | some (.dec d) => d.phase
  | _ => .idle

/-- The dictionary unit of the engine under a tag: it exists only while its command runs (R22). -/
def State.dictOf (s : State) (tag : Nat) : Option Dict :=
  match Table.get s.engines tag with
  | some (.comp c) => c.dict
  | some (.dec d) => d.dict
  | _ => none

/-- `LSTATE` of a lexer instance, if it is open (R29, R31). -/
def State.lstate (s : State) (id : Nat) : Option LState := (Table.get s.lexers id).map Lexer.state

/-- `LCUR` of a lexer instance, if it is open (R29). -/
def State.lcur (s : State) (id : Nat) : Option Nat := (Table.get s.lexers id).map Lexer.cur

end Sys2Proof.Machine
end

