-- ==== Sys2Proof/Machine/Compressor.lean ====
section
/-! DEFINITION. The compressor (43_compressor.md): the checks, the framing of runs, the longest-match search over the live ring, the
emission of tokens and the finalize stage, as the steps of an engine that `CPHASE` names (10_state.md rule R26). The spec names the
phases and gives them no sequence: which rule is done in which phase is the model's choice (DESIGN CHOICE, unsafe: log entry 24). -/

namespace Sys2Proof.Machine

/-- A compressor at the start of `COMPRESS(mode, data)`: the column "value at command start" of R25. -/
def Comp.start (mode : Word32) (data : Buffer) : Comp :=
  { mode, inp := data, ip := 0, out := [], ctrl := none, ctrlPos := none, slot := none, finished := false, w0 := none, fill0 := none,
    cap := none, best := none, bestOff := none, k := none, m := none, dict := none, crcAcc := 0, phase := .check }

/-! ### The search (R134 to R138) -/

/-- The registers one search works on: the dictionary unit, `BEST`, `BEST_OFF` and `M`. -/
structure Search where
  dict : Dict
  best : Nat
  bestOff : Off12
  m : Option Nat
  deriving DecidableEq, Repr

/-- The inner loop of `TryCandidate(o)` (R136): compare the live ring with the upcoming bytes from the `m`-th on, and push each newly
confirmed byte that beats `best`. It answers the match length and the dictionary. -/
def matchFrom (o : Off12) (best : Nat) : Buffer → Nat → Dict → Nat × Dict
  | [], m, d => (m, d)
  | b :: bs, m, d =>
    if d.read (o + BitVec.ofNat 12 m) = b then matchFrom o best bs (m + 1) (if best < m + 1 then d.push b else d)
    else (m, d)

/-- `TryCandidate(o)` (R136), replacing the best on strict improvement only (R137). `upcoming` is `IN[IP .. IP + CAP)`. -/
def tryCandidate (upcoming : Buffer) (o : Off12) (s : Search) : Search :=
  match matchFrom o s.best upcoming 0 s.dict with
  | (m, d) =>
    if s.best < m then { dict := d, best := m, bestOff := o, m := some m } else { s with dict := d, m := some m }

/-- Whether a ring offset is a candidate, judged by the snapshot `FILL0` (R135). -/
def candidateValid (fill0 : BitVec 13) (o : Off12) : Bool := ringFull fill0 || decide (o.toNat < fill0.toNat)

/-- The candidate loop of R135 from `K = k` on, `left` candidates long: `o = (W0 + 1 + K) mod 4096`. -/
def searchFrom (w0 : Off12) (fill0 : BitVec 13) (upcoming : Buffer) : Nat → Nat → Search → Search
  | 0, _, s => s
  | left + 1, k, s =>
    let o := w0 + 1 + BitVec.ofNat 12 k
    if candidateValid fill0 o then searchFrom w0 fill0 upcoming left (k + 1) (tryCandidate upcoming o s)
    else searchFrom w0 fill0 upcoming left (k + 1) s

/-- The number of candidates: `K` runs from 0 to 4094, so that the write cursor `W0` itself is never one (R135). -/
abbrev candidateCount : Nat := 4095

/-- `Search()` up to the end of its candidate loop (R134, R135). -/
def searchAll (d : Dict) (upcoming : Buffer) : Search :=
  searchFrom d.wcur d.fill upcoming candidateCount 0 { dict := d, best := 0, bestOff := 0, m := none }

/-- The end of a search (R138): where no candidate matched a byte, the literal's byte is pushed. -/
def endSearch (upcoming : Buffer) (s : Search) : Search :=
  if s.best = 0 then { s with dict := s.dict.pushAll (upcoming.take 1) } else s

/-- `Search()` as a step: `W0`, `FILL0` and `CAP` are written, and `BEST`, `BEST_OFF`, `K`, `M` and the dictionary are left as the
search leaves them (R134 to R138). -/
def Comp.search (c : Comp) (d : Dict) : Comp :=
  let cap := min maxMatch (c.inp.length - c.ip)
  let upcoming := (c.inp.drop c.ip).take cap
  let r := endSearch upcoming (searchAll d upcoming)
  { c with w0 := some d.wcur, fill0 := some d.fill, cap := some cap, best := some r.best, bestOff := some r.bestOff,
           k := some (candidateCount - 1), m := r.m, dict := some r.dict }

/-! ### Size checks (R131) and the header patch (R120, R145) -/

/-- `SizeCheckIn()` (R131): the error, if any. -/
def sizeCheckIn (cfg : Config) (mode : Word32) (n : Nat) : Option Err :=
  if maxField < n then some (.inputTooLarge .sizeField)
  else if mode = tagUncompressed ∧ maxField < n + 12 then some (.inputTooLarge .sizeField)
  else if mode = tagCompressed ∧ cfg.maxInCompressed < n then some (.inputTooLarge .inputLimit)
  else none

/-- `SizeCheckOut()` on the final output length (R131): the error, if any. -/
def sizeCheckOut (cfg : Config) (mode : Word32) (len : Nat) : Option Err :=
  if mode = tagCompressed ∧ maxField < len - 4 then some (.inputTooLarge .sizeField)
  else if cfg.maxOut < len then some (.inputTooLarge .outputLimit)
  else none

/-- `HdrEncode` over the 16 bytes at `OUT[0..16)` (R120). -/
def patchHeader (out : Buffer) (cs rs ct crcVal : Word32) : Buffer := headerBytes cs rs ct crcVal ++ out.drop hdrLen

/-- 16 bytes of 0x00, the header placeholder (R130, R132). -/
def headerPlaceholder : Buffer := List.replicate hdrLen 0x00#8

/-- The container of `UNCOMPRESSED` mode (R130): the header with `comp_size = N + 12`, `raw_size = N`, `crc = 0`, then the input. -/
def rawContainer (data : Buffer) : Buffer :=
  patchHeader headerPlaceholder (BitVec.ofNat 32 (data.length + 12)) (BitVec.ofNat 32 data.length) tagUncompressed 0 ++ data

/-! ### The steps -/

/-- `CHECK` (R130, R131): the mode, the input size, then the whole of `UNCOMPRESSED` mode or the set-up of `COMPRESSED` mode
(R132). That all of this is done in `CHECK`, so that `UNCOMPRESSED` mode shows no later phase, is the model's choice (DESIGN CHOICE,
unsafe: log entry 24). -/
def Comp.check (cfg : Config) (c : Comp) : Tick Comp :=
  if c.mode ≠ tagCompressed ∧ c.mode ≠ tagUncompressed then .done c (.err (.invalidArgument .unknownMode))
  else
    match sizeCheckIn cfg c.mode c.inp.length with
    | some e => .done c (.err e)
    | none =>
      if c.mode = tagUncompressed then
        match sizeCheckOut cfg c.mode (rawContainer c.inp).length with
        | some e => .done c (.err e)
        | none => .done c (.ok (.bytes (rawContainer c.inp)))
      else .run { c with dict := some Dict.new, out := headerPlaceholder, ip := 0, finished := false, phase := .runStart }

/-- `RUN_START` (R133): the placeholder of a run's control byte. -/
def Comp.beginRun (c : Comp) : Tick Comp :=
  .run { c with ctrlPos := some c.out.length, out := c.out ++ [0x00#8], ctrl := some 0x00#8, slot := some 0, phase := .search }

/-- `SEARCH` (R133): a search where input is left, none where it is not, when the phase is passed through (DESIGN CHOICE, unsafe: log
entry 24). -/
def Comp.searchStep (c : Comp) : Tick Comp :=
  match c.dict with
  | none => .fault (.unwritten .dict)
  | some d => if c.ip = c.inp.length then .run { c with phase := .emit } else .run { c.search d with phase := .emit }

/-- `EmitEOS()` (R140). -/
def Comp.emitEos (c : Comp) (d : Dict) (ctrl : Byte) (slot : Nat) : Comp :=
  { c with ctrl := some (setCtrlBit ctrl slot), out := c.out ++ [refHigh d.wcur, refLow d.wcur 0], finished := true }

/-- `EmitLiteral()` (R141). -/
def Comp.emitLiteral (c : Comp) (b : Byte) : Comp := { c with out := c.out ++ [b], ip := c.ip + 1 }

/-- `EmitReference(L, off)` (R142). -/
def Comp.emitReference (c : Comp) (ctrl : Byte) (slot len : Nat) (off : Off12) : Comp :=
  { c with ctrl := some (setCtrlBit ctrl slot), out := c.out ++ [refHigh off, refLow off (lengthCode len)], ip := c.ip + len }

/-- The token of a slot (R133): the EOS where the input is used up, a literal where the best match is shorter than 2, else a
reference. -/
def Comp.emitToken (c : Comp) (d : Dict) (ctrl : Byte) (slot : Nat) : Except Fault Comp :=
  if c.ip = c.inp.length then .ok (c.emitEos d ctrl slot)
  else
    match c.best, c.bestOff with
    | none, _ => .error (.unwritten .best)
    | some _, none => .error (.unwritten .bestOff)
    | some len, some off =>
      if len < minMatch then
        match c.inp[c.ip]? with
        | none => .error (.outsideBuffer .inBuffer)
        | some b => .ok (c.emitLiteral b)
      else .ok (c.emitReference ctrl slot len off)

/-- The end of a run (R133): its control byte goes to `CTRL_POS`. -/
def Comp.endRun (c : Comp) : Tick Comp :=
  match c.ctrlPos, c.ctrl with
  | none, _ => .fault (.unwritten .ctrlPos)
  | some _, none => .fault (.unwritten .ctrl)
  | some pos, some ctrl =>
    if pos < c.out.length then .run { c with out := c.out.set pos ctrl, phase := if c.finished then .finalize else .runStart }
    else .fault (.outsideBuffer .outBuffer)

/-- `EMIT` (R133): the token, then the next slot, or the end of the run after slot 7 or the EOS. That the run ends in this phase
is the model's choice (DESIGN CHOICE, unsafe: log entry 24). -/
def Comp.emit (c : Comp) : Tick Comp :=
  match c.dict, c.ctrl, c.slot with
  | none, _, _ => .fault (.unwritten .dict)
  | some _, none, _ => .fault (.unwritten .ctrl)
  | some _, some _, none => .fault (.unwritten .slot)
  | some d, some ctrl, some slot =>
    match c.emitToken d ctrl slot with
    | .error f => .fault f
    | .ok c =>
      let c := { c with slot := some (slot + 1) }
      if slot + 1 < runSlots ∧ c.finished = false then .run { c with phase := .search } else c.endRun

/-- `FINALIZE` (R145): the CRC over every byte after the header, the size checks, the header. -/
def Comp.finalize (cfg : Config) (c : Comp) : Tick Comp :=
  if c.out.length < hdrLen then .fault (.outsideBuffer .outBuffer)
  else
    let acc := crc 0 (c.out.drop hdrLen)
    match sizeCheckOut cfg c.mode c.out.length with
    | some e => .done { c with crcAcc := acc } (.err e)
    | none =>
      .run { c with crcAcc := acc, phase := .done,
                    out := patchHeader c.out (BitVec.ofNat 32 (c.out.length - 4)) (BitVec.ofNat 32 c.inp.length) tagCompressed acc }

/-- One step of a compressor, by `CPHASE` (R26). `DONE` hands `OUT` to the host. The sequence of the phases is the model's choice (DESIGN
CHOICE, unsafe: log entry 24). -/
def Comp.tick (cfg : Config) (c : Comp) : Tick Comp :=
  match c.phase with
  | .idle => .outOfPlace
  | .check => c.check cfg
  | .runStart => c.beginRun
  | .search => c.searchStep
  | .emit => c.emit
  | .finalize => c.finalize cfg
  | .done => .done c (.ok (.bytes c.out))

/-- The steps of a compressor up to its response, at most `fuel` of them. -/
def Comp.runAll (cfg : Config) : Nat → Comp → Except Fault Response
  | 0, _ => .error .runaway
  | fuel + 1, c =>
    match c.tick cfg with
    | .run c' => Comp.runAll cfg fuel c'
    | .done _ r => .ok r
    | .fault f => .error f
    | .outOfPlace => .error .runaway

/-- Steps enough for any input of `n` bytes: two a token, one more a run, three more a command (R133). -/
def Comp.bound (n : Nat) : Nat := 3 * n + 8

/-- The response of `COMPRESS(mode, data)` (R130, R148). -/
def compressResponse (cfg : Config) (mode : Word32) (data : Buffer) : Except Fault Response :=
  Comp.runAll cfg (Comp.bound data.length) (Comp.start mode data)

end Sys2Proof.Machine
end

