-- ==== Sys2Proof/WellFormed.lean ====
section
/-! DEFINITION. Which terms of `Instr` stand for an instruction the encodings admit. The fields' widths are in the types; what is
left are the type tags (30_encoding.md rule R71) and the byte classes and counts of the lexer's tokens (rules R86 to R88). -/

namespace Sys2Proof

/-- A keyword: 1 to 32 letters (R87, R88). -/
def keywordOk (kw : Buffer) : Bool := 1 ≤ kw.length && kw.length ≤ kwMax && kw.all isLetter

/-- A parameter's digits: 0 to 10 of them (R87). -/
def digitsOk (ds : Buffer) : Bool := ds.length ≤ paramMaxDigits && ds.all isDigit

/-- Text: 1 or more ordinary bytes (R87, R88). -/
def textOk (bs : Buffer) : Bool := !bs.isEmpty && bs.all isOrdinary

/-- The check of each instruction. -/
def Instr.wf : Instr → Bool
  | .hdrLZFu _ _ _ => true
  | .hdrMELA _ _ _ => true
  | .hdrOther _ _ ct _ => ct != tagCompressed && ct != tagUncompressed
  | .ctrl _ => true
  | .lit _ => true
  | .ref _ _ => true
  | .eos _ _ => true
  | .crc32 _ _ => true
  | .compress _ _ => true
  | .decompress _ => true
  | .parseHeader _ => true
  | .lexOpen _ => true
  | .lexNext _ => true
  | .lexSkip _ _ => true
  | .lexClose _ => true
  | .tokenEnd => true
  | .tokenGroup _ => true
  | .tokenControlSymbol c => !isLetter c
  | .tokenControlWord kw _ => keywordOk kw
  | .tokenText bs => textOk bs
  | .rtfOpen => true
  | .rtfClose => true
  | .rtfControlSymbol c => !isLetter c
  | .rtfControlWord kw _ ds _ => keywordOk kw && digitsOk ds
  | .rtfLineBreak c => isLineBreak c
  | .rtfText bs => textOk bs

end Sys2Proof
end

