-- ==== Sys2Proof/Decode.lean ====
section
/-! DEFINITION. The decoder, total on every `Code` and refusing by name, and after it the encoder (30_encoding.md rules R70 to R90,
45_lexer.md rules R185 to R190). -/

namespace Sys2Proof

/-! ### Host commands (R90) -/

/-- A u32 operand: the value given, the default where the host omits it, and no operand at all is refused (R90, R218). -/
def u32Operand (arg : Option Nat) (default : Option Word32) : Except Reject Word32 :=
  match arg, default with
  | some v, _ => if v < 2 ^ 32 then .ok (BitVec.ofNat 32 v) else .error .operandNotU32
  | none, some d => .ok d
  | none, none => .error .missingOperand

/-- The command of a command code, with its operands (R90). `COMPRESS` takes `COMPRESSED` where the host names no mode (R85). -/
def decodeCommand (c : HostCommand) : Except Reject Instr :=
  match c.code.toNat with
  | 1 => (u32Operand c.arg none).map (fun w => .crc32 w c.data)
  | 2 => (u32Operand c.arg (some tagCompressed)).map (fun w => .compress w c.data)
  | 3 => .ok (.decompress c.data)
  | 4 => .ok (.parseHeader c.data)
  | 5 => .ok (.lexOpen c.data)
  | 6 => .ok (.lexNext c.lexer)
  | 7 => .ok (.lexSkip c.lexer c.count)
  | 8 => .ok (.lexClose c.lexer)
  | _ => .error (.notACommand c.code)

/-! ### The container header (R70, R71, R122) -/

/-- The header of a type tag: `COMPRESSED`, `UNCOMPRESSED`, or any other value (R71). -/
def headerOf (cs rs ct crc : Word32) : Instr :=
  if ct = tagCompressed then .hdrLZFu cs rs crc
  else if ct = tagUncompressed then .hdrMELA cs rs crc
  else .hdrOther cs rs ct crc

/-- The header at the start of a container: four little-endian fields at 0, 4, 8 and 12 (R70, R122); fewer than 16 bytes are none
(R121). -/
def decodeHeader : Buffer → Except Reject (Instr × Buffer)
  | a0 :: a1 :: a2 :: a3 :: b0 :: b1 :: b2 :: b3 :: c0 :: c1 :: c2 :: c3 :: d0 :: d1 :: d2 :: d3 :: rest =>
    .ok (headerOf (le32 a0 a1 a2 a3) (le32 b0 b1 b2 b3) (le32 c0 c1 c2 c3) (le32 d0 d1 d2 d3), rest)
  | _ => .error .tooShort

/-! ### The compressed stream (R74 to R79) -/

/-- A control byte: every value is legal (R75). -/
def decodeControl : Buffer → Except Reject (Instr × Buffer)
  | k :: rest => .ok (.ctrl k, rest)
  | [] => .error .tooShort

/-- A token body: one byte where the control bit is 0, two where it is 1 (R75, R81); a reference whose offset is the decoder's write
cursor is the EOS (R79). -/
def decodeBody (bit : Bool) (wcur : Off12) : Buffer → Except Reject (Instr × Buffer)
  | [] => .error .tooShort
  | b0 :: rest =>
    match bit, rest with
    | false, _ => .ok (.lit b0, rest)
    | true, [] => .error .tooShort
    | true, b1 :: rest' =>
      let off := refOffset b0 b1
      .ok (if off = wcur then .eos off (refCode b1) else .ref off (refCode b1), rest')

/-! ### Token records (R88) -/

/-- The token of a record, by its kind code. -/
def decodeRecord (r : Record) : Except Reject Instr :=
  match r.kind with
  | 0 => .ok .tokenEnd
  | 1 => .ok (.tokenGroup r.isOpen)
  | 2 => .ok (.tokenControlSymbol r.symbol)
  | 3 => .ok (.tokenControlWord r.keyword r.param)
  | 4 => .ok (.tokenText r.bytes)
  | k => .error (.unknownKind k)

/-! ### RTF syntax (R86, R87, R185 to R191) -/

/-- The optional sign (R187): whether a `-` stands there, and what follows. -/
def takeSign : Buffer → Bool × Buffer
  | c :: rest => if c = byteMinus then (true, rest) else (false, c :: rest)
  | [] => (false, [])

/-- The optional delimiter space (R190): whether one stands there, and what follows. -/
def takeSpace : Buffer → Bool × Buffer
  | c :: rest => if c = byteSpace then (true, rest) else (false, c :: rest)
  | [] => (false, [])

/-- A control word, from its first letter on. The keyword is every letter up to the first byte that is none: a 33rd letter is an
error, and so is a buffer that ends before that byte (R186); 11 digits are an error (R188). `consumed` counts the backslash. -/
def decodeControlWord (bs : Buffer) : Except Reject (Instr × Buffer) :=
  let kw := bs.takeWhile isLetter
  let afterKw := bs.dropWhile isLetter
  if kwMax < kw.length then .error (.lexical .keywordTooLong (1 + kwMax))
  else if afterKw.isEmpty then .error (.lexical .bufferUnderrun (1 + kw.length))
  else
    let (neg, afterSign) := takeSign afterKw
    let digits := afterSign.takeWhile isDigit
    let afterDigits := afterSign.dropWhile isDigit
    if paramMaxDigits < digits.length then
      .error (.lexical .parameterTooLong (1 + kw.length + neg.toNat + paramMaxDigits))
    else
      let (space, rest) := takeSpace afterDigits
      .ok (.rtfControlWord kw neg digits space, rest)

/-- A control token, from the byte after its backslash on: a byte that is no letter is a control symbol, a letter begins a control
word, and a buffer that ends there is an error (R185). -/
def decodeControlToken : Buffer → Except Reject (Instr × Buffer)
  | [] => .error (.lexical .bufferUnderrun 1)
  | c :: rest => if isLetter c then decodeControlWord (c :: rest) else .ok (.rtfControlSymbol c, rest)

/-- The syntax at the lexer's read cursor (R87, R182). -/
def decodeRtf : Buffer → Except Reject (Instr × Buffer)
  | [] => .error .endOfBuffer
  | c :: rest =>
    if c = byteOpen then .ok (.rtfOpen, rest)
    else if c = byteClose then .ok (.rtfClose, rest)
    else if c = byteBackslash then decodeControlToken rest
    else if isLineBreak c then .ok (.rtfLineBreak c, rest)
    else .ok (.rtfText (c :: rest.takeWhile isOrdinary), rest.dropWhile isOrdinary)

/-! ### The decoder -/

/-- The instruction that stands in a place, and the bytes after it. -/
def decode : Code → Except Reject (Instr × Buffer)
  | .command c => (decodeCommand c).map (fun i => (i, []))
  | .header bs => decodeHeader bs
  | .control bs => decodeControl bs
  | .body bit wcur bs => decodeBody bit wcur bs
  | .record r => (decodeRecord r).map (fun i => (i, []))
  | .rtf bs => decodeRtf bs

/-! ### The encoder -/

/-- A host command with every operand blank. -/
def HostCommand.blank (code : Byte) : HostCommand := { code, arg := none, lexer := 0, count := 0, data := [] }

/-- The words of an instruction, in a place where it can stand. A `REF` stands where the write cursor is not its offset (here one
past it), an `EOS` where it is. -/
def encode : Instr → Code
  | .hdrLZFu cs rs crc => .header (headerBytes cs rs tagCompressed crc)
  | .hdrMELA cs rs crc => .header (headerBytes cs rs tagUncompressed crc)
  | .hdrOther cs rs ct crc => .header (headerBytes cs rs ct crc)
  | .ctrl k => .control [k]
  | .lit b => .body false 0 [b]
  | .ref off code => .body true (off + 1) [refHigh off, refLow off code]
  | .eos off code => .body true off [refHigh off, refLow off code]
  | .crc32 crcIn data => .command { HostCommand.blank 1 with arg := some crcIn.toNat, data }
  | .compress mode data => .command { HostCommand.blank 2 with arg := some mode.toNat, data }
  | .decompress data => .command { HostCommand.blank 3 with data }
  | .parseHeader data => .command { HostCommand.blank 4 with data }
  | .lexOpen data => .command { HostCommand.blank 5 with data }
  | .lexNext lexer => .command { HostCommand.blank 6 with lexer }
  | .lexSkip lexer n => .command { HostCommand.blank 7 with lexer, count := n }
  | .lexClose lexer => .command { HostCommand.blank 8 with lexer }
  | .tokenEnd => .record recordEnd
  | .tokenGroup isOpen => .record (recordGroup isOpen)
  | .tokenControlSymbol c => .record (recordControlSymbol c)
  | .tokenControlWord kw param => .record (recordControlWord kw param)
  | .tokenText bs => .record (recordText bs)
  | .rtfOpen => .rtf [byteOpen]
  | .rtfClose => .rtf [byteClose]
  | .rtfControlSymbol c => .rtf [byteBackslash, c]
  | .rtfControlWord kw neg ds space =>
    .rtf (byteBackslash :: kw ++ (if neg then [byteMinus] else []) ++ ds ++ (if space then [byteSpace] else []))
  | .rtfLineBreak c => .rtf [c]
  | .rtfText bs => .rtf bs

/-- The bytes of a `Code` that a byte stream holds; none for a command or a record. -/
def Code.bytes : Code → Buffer
  | .command _ => []
  | .header bs => bs
  | .control bs => bs
  | .body _ _ bs => bs
  | .record _ => []
  | .rtf bs => bs

/-- The same place with more bytes after. -/
def Code.append : Code → Buffer → Code
  | .command c, _ => .command c
  | .header bs, rest => .header (bs ++ rest)
  | .control bs, rest => .control (bs ++ rest)
  | .body bit w bs, rest => .body bit w (bs ++ rest)
  | .record r, _ => .record r
  | .rtf bs, rest => .rtf (bs ++ rest)

/-- The first byte of what follows, if any, is not of a class. -/
def startsWithout (p : Byte → Bool) : Buffer → Bool
  | [] => true
  | c :: _ => !p c

/-- What may follow an instruction so that it still ends where it ends (R87: text and control words are maximal). A keyword with no
sign, digit or space after it needs a byte to end it (R186). -/
def follows : Instr → Buffer → Bool
  | .rtfText _, rest => startsWithout isOrdinary rest
  | .rtfControlWord _ neg ds space, rest =>
    if space then true
    else
      startsWithout (· == byteSpace) rest && startsWithout isDigit rest &&
        (if ds.isEmpty && !neg then
          !rest.isEmpty && startsWithout isLetter rest && startsWithout (· == byteMinus) rest
        else true)
  | .hdrLZFu _ _ _, _ => true
  | .hdrMELA _ _ _, _ => true
  | .hdrOther _ _ _ _, _ => true
  | .ctrl _, _ => true
  | .lit _, _ => true
  | .ref _ _, _ => true
  | .eos _ _, _ => true
  | .crc32 _ _, rest => rest.isEmpty
  | .compress _ _, rest => rest.isEmpty
  | .decompress _, rest => rest.isEmpty
  | .parseHeader _, rest => rest.isEmpty
  | .lexOpen _, rest => rest.isEmpty
  | .lexNext _, rest => rest.isEmpty
  | .lexSkip _ _, rest => rest.isEmpty
  | .lexClose _, rest => rest.isEmpty
  | .tokenEnd, rest => rest.isEmpty
  | .tokenGroup _, rest => rest.isEmpty
  | .tokenControlSymbol _, rest => rest.isEmpty
  | .tokenControlWord _ _, rest => rest.isEmpty
  | .tokenText _, rest => rest.isEmpty
  | .rtfOpen, _ => true
  | .rtfClose, _ => true
  | .rtfControlSymbol _, _ => true
  | .rtfLineBreak _, _ => true

/-! ### A word of the opcode table -/

/-- The first `n` bytes of `w`, bits 7..0 first. -/
def bytesOfNat : Nat → Nat → Buffer
  | 0, _ => []
  | n + 1, w => BitVec.ofNat 8 w :: bytesOfNat n (w / 256)

/-- The operands of a host command that is given as a bare command code: every operand bit is 0. -/
def bareCommand (code : Byte) : HostCommand := { HostCommand.blank code with arg := some 0 }

/-- Where a word of spec/opcode_table.json stands. The table numbers command codes, record kinds, control bytes, RTF bytes and
reference bodies alike, so the place is chosen by the word (DESIGN CHOICE, unsafe: log entry 6): 16 bytes are a container header, 2 bytes a reference body behind a
control bit of 1 in a fresh dictionary (`WCUR` = 207). One byte is the command code where it is one, the `END` record for 0 (the one
kind code that is no command code), RTF syntax for its five delimiter bytes, and a control byte otherwise. -/
def tableCode (nbits w : Nat) : Code :=
  let b := BitVec.ofNat 8 w
  if 128 ≤ nbits then .header (bytesOfNat 16 w)
  else if nbits = 16 then .body true (BitVec.ofNat 12 seedLen) (bytesOfNat 2 w)
  else if b = 0 then .record recordEnd
  else if b.toNat ≤ 8 then .command (bareCommand b)
  else if b = byteBackslash then .rtf [b, 0]
  else if b = byteOpen || b = byteClose || isLineBreak b then .rtf [b]
  else .control [b]

/-- The instruction the decoder reads from a word of spec/opcode_table.json. -/
def decodeTableWord (nbits w : Nat) : Option Instr :=
  match decode (tableCode nbits w) with
  | .ok (i, _) => some i
  | .error _ => none

end Sys2Proof
end

