-- ==== Sys2Proof/Machine/Decompressor.lean ====
section
/-! DEFINITION. The decompressor and the header decoder (44_decompressor.md, 42_header.md): what each header and token does to the
registers of 10_state.md rule R27, the stages after the EOS, and the engine as the steps that `DPHASE` names (rule R28). -/

namespace Sys2Proof.Machine

/-- A decompressor at the start of a command: the column "value at command start" of R27. `DPHASE` is `HEADER` from the
start of both commands; R160 says so of `DECOMPRESS`, and of `PARSE_HEADER` no rule gives a phase (DESIGN CHOICE, unsafe: log entry
25). -/
def Dec.start (cmd : DCommand) (data : Buffer) : Dec :=
  { cmd, inp := data, hdr := none, ip := none, out := [], ctrl := none, bit := none, refHi := none, refLo := none, copyOff := none,
    copyLen := none, copyI := none, eosSeen := false, dict := none, crcAcc := 0, phase := .header }

/-! ### Where the next element stands -/

/-- The place of the next header, control byte or token body (R160, R164, R166). -/
def Dec.next (d : Dec) : Next :=
  match d.phase with
  | .header => .read (.header d.inp)
  | .ctrl =>
    match d.ip with
    | none => .fault (.unwritten .ip)
    | some ip => .read (.control (d.inp.drop ip))
  | .token =>
    match d.ip, d.ctrl, d.bit, d.dict with
    | none, _, _, _ => .fault (.unwritten .ip)
    | some _, none, _, _ => .fault (.unwritten .ctrl)
    | some _, some _, none, _ => .fault (.unwritten .bit)
    | some _, some _, some _, none => .fault (.unwritten .dict)
    | some ip, some ctrl, some bit, some dict => .read (.body (ctrlBit ctrl bit) dict.wcur (d.inp.drop ip))
  | .idle => .inner
  | .copy => .inner
  | .trail => .inner
  | .check => .inner
  | .done => .inner

/-- The error of a place where too few bytes stand: `MalformedHeader(TooShort)` (R121), `InputUnderrun` of a control byte, a literal
body (R163) or a reference body, which is checked as a whole before either byte is read (R169). -/
def tooFewBytes : Code → Err
  | .body false _ _ => .inputUnderrun .literalBody
  | .body true _ _ => .inputUnderrun .referenceBody
  | .control _ => .inputUnderrun .controlByte
  | .header _ => .malformedHeader .tooShort
  | .command _ => .malformedHeader .tooShort
  | .record _ => .malformedHeader .tooShort
  | .rtf _ => .malformedHeader .tooShort

/-! ### Headers (R121 to R123, R160, R173) -/

/-- The header parse writes the four header fields (R122). -/
def Dec.setHeader (d : Dec) (cs rs ct crcVal : Word32) : Dec :=
  { d with hdr := some { compSize := cs, rawSize := rs, compType := ct, crc := crcVal } }

/-- `DecodeSetUp()` (R162). -/
def Dec.setUp (cfg : Config) (d : Dec) (rs : Word32) : Tick Dec :=
  if cfg.maxOut < rs.toNat then .done d (.err (.inputTooLarge .outputLimit))
  else .run { d with dict := some Dict.new, crcAcc := 0, ip := some hdrLen, out := [], eosSeen := false, phase := .ctrl }

/-- A `COMPRESSED` header: `PARSE_HEADER` returns its fields (R123), `DECOMPRESS` sets up the stream (R160, R162). That a `PARSE_HEADER`
ends from `HEADER`, with no `DONE`, is the model's choice (DESIGN CHOICE, unsafe: log entry 25). -/
def Dec.headerLZFu (cfg : Config) (cs rs crcVal : Word32) (d : Dec) : Tick Dec :=
  if d.phase ≠ .header then .outOfPlace
  else
    let d := d.setHeader cs rs tagCompressed crcVal
    match d.cmd with
    | .parseHeader => .done d (.ok (.header ⟨cs, rs, tagCompressed, crcVal⟩))
    | .decompress => d.setUp cfg rs

/-- An `UNCOMPRESSED` header: `PARSE_HEADER` returns its fields (R123), `DECOMPRESS` checks nothing more and goes to `DONE` (R173, R179),
which returns `IN[16..N)`. That a `PARSE_HEADER` ends from `HEADER`, with no `DONE`, is the model's choice (DESIGN CHOICE, unsafe: log
entry 25). -/
def Dec.headerMELA (cs rs crcVal : Word32) (d : Dec) : Tick Dec :=
  if d.phase ≠ .header then .outOfPlace
  else
    let d := d.setHeader cs rs tagUncompressed crcVal
    match d.cmd with
    | .parseHeader => .done d (.ok (.header ⟨cs, rs, tagUncompressed, crcVal⟩))
    | .decompress => .run { d with phase := .done }

/-- Any other type tag is `MalformedHeader(UnknownCompType)` (R122). -/
def Dec.headerOther (cs rs ct crcVal : Word32) (d : Dec) : Tick Dec :=
  if d.phase ≠ .header then .outOfPlace
  else .done (d.setHeader cs rs ct crcVal) (.err (.malformedHeader .unknownCompType))

/-! ### The compressed stream (R163 to R169) -/

/-- The reading side of `ReadByte` for the bytes of one element (R163): fold each into `CRC_ACC`, advance `IP` past them. -/
def Dec.consume (d : Dec) (ip : Nat) (bs : Buffer) : Dec := { d with crcAcc := crc d.crcAcc bs, ip := some (ip + bs.length) }

/-- A control byte (R160, R164). -/
def Dec.control (k : Byte) (d : Dec) : Tick Dec :=
  if d.phase ≠ .ctrl then .outOfPlace
  else
    match d.ip with
    | none => .fault (.unwritten .ip)
    | some ip =>
      if d.inp.length < ip + 1 then .fault (.outsideBuffer .inBuffer)
      else .run { d.consume ip [k] with ctrl := some k, bit := some 0, phase := .token }

/-- The registers a token reads: `IP`, `CTRL`, `BIT`, the dictionary unit, and `H_RAW_SIZE`. -/
structure TokenRegs where
  ip : Nat
  ctrl : Byte
  bit : Nat
  dict : Dict
  raw : Nat
  deriving DecidableEq, Repr

/-- Read them, faulting on one that is unwritten (R34). -/
def Dec.tokenRegs (d : Dec) : Except Fault TokenRegs :=
  match d.ip, d.ctrl, d.bit, d.dict, d.hdr with
  | none, _, _, _, _ => .error (.unwritten .ip)
  | some _, none, _, _, _ => .error (.unwritten .ctrl)
  | some _, some _, none, _, _ => .error (.unwritten .bit)
  | some _, some _, some _, none, _ => .error (.unwritten .dict)
  | some _, some _, some _, some _, none => .error (.unwritten .hdr)
  | some ip, some ctrl, some bit, some dict, some hdr => .ok ⟨ip, ctrl, bit, dict, hdr.rawSize.toNat⟩

/-- After a token: the next slot, or after slot 7 the next control byte (R160, R164). -/
def Dec.nextSlot (d : Dec) (bit : Nat) : Dec :=
  { d with bit := some (bit + 1), phase := if bit + 1 < runSlots then .token else .ctrl }

/-- The loop of `CopyReference()` (R167), `n` bytes from `COPY_I = i` on, each read after the push of the byte before it, each
through `WriteOut` (R168). `none` is `OutputOverflow`. -/
def copyLoop (raw : Nat) (off : Off12) : Nat → Nat → Dict → Buffer → Option (Dict × Buffer)
  | 0, _, dict, out => some (dict, out)
  | n + 1, i, dict, out =>
    if out.length = raw then none
    else
      let b := dict.read (off + BitVec.ofNat 12 i)
      copyLoop raw off n (i + 1) (dict.push b) (out ++ [b])

/-- `DecodeLiteral()` (R165) with `WriteOut` (R168). -/
def Dec.literal (b : Byte) (d : Dec) : Tick Dec :=
  if d.phase ≠ .token then .outOfPlace
  else
    match d.tokenRegs with
    | .error f => .fault f
    | .ok t =>
      if ctrlBit t.ctrl t.bit then .outOfPlace
      else if d.inp.length < t.ip + 1 then .fault (.outsideBuffer .inBuffer)
      else
        let d := d.consume t.ip [b]
        if d.out.length = t.raw then .done d (.err .outputOverflow)
        else .run ({ d with out := d.out ++ [b], dict := some (t.dict.push b) }.nextSlot t.bit)

/-- Reading a reference body (R166): both bytes folded, `REF_HI`, `REF_LO`, `COPY_OFF` and `COPY_LEN` written. -/
def Dec.readBody (d : Dec) (ip : Nat) (off : Off12) (code : BitVec 4) : Dec :=
  { d.consume ip [refHigh off, refLow off code] with
    refHi := some (refHigh off), refLo := some (refLow off code), copyOff := some off, copyLen := some (matchLength code) }

/-- `DecodeReference()` on a body whose offset is not `WCUR` (R166): `CopyReference()` (R167), after which `DPHASE` is `COPY` and `COPY_I`
is `COPY_LEN`. -/
def Dec.reference (off : Off12) (code : BitVec 4) (d : Dec) : Tick Dec :=
  if d.phase ≠ .token then .outOfPlace
  else
    match d.tokenRegs with
    | .error f => .fault f
    | .ok t =>
      if ctrlBit t.ctrl t.bit = false ∨ off = t.dict.wcur then .outOfPlace
      else if d.inp.length < t.ip + 2 then .fault (.outsideBuffer .inBuffer)
      else
        let d := { d.readBody t.ip off code with phase := .copy }
        match copyLoop t.raw off (matchLength code) 0 t.dict d.out with
        | none => .done d (.err .outputOverflow)
        | some (dict, out) => .run { d with copyI := some (matchLength code), dict := some dict, out := out }

/-- The end of a copy: the token is done, and the next slot or control byte follows (R160, R179). -/
def Dec.endCopy (d : Dec) : Tick Dec :=
  match d.bit with
  | none => .fault (.unwritten .bit)
  | some bit => .run (d.nextSlot bit)

/-- `DecodeReference()` on a body whose offset is `WCUR` (R166): `EOS_SEEN` is set, nothing is pushed or written, and the token loop
ends. -/
def Dec.endOfStream (off : Off12) (code : BitVec 4) (d : Dec) : Tick Dec :=
  if d.phase ≠ .token then .outOfPlace
  else
    match d.tokenRegs with
    | .error f => .fault f
    | .ok t =>
      if ctrlBit t.ctrl t.bit = false ∨ off ≠ t.dict.wcur then .outOfPlace
      else if d.inp.length < t.ip + 2 then .fault (.outsideBuffer .inBuffer)
      else .run { d.readBody t.ip off code with eosSeen := true, bit := some (t.bit + 1), phase := .trail }

/-! ### After the EOS (R170 to R172) -/

/-- `FoldTrailing()` (R170): every byte after the EOS body is folded into the CRC. -/
def Dec.foldTrailing (d : Dec) : Tick Dec :=
  match d.ip with
  | none => .fault (.unwritten .ip)
  | some ip => .run { d.consume ip (d.inp.drop ip) with phase := .check }

/-- The CRC check, then the length check (R171, R172). -/
def Dec.checks (d : Dec) : Tick Dec :=
  match d.hdr with
  | none => .fault (.unwritten .hdr)
  | some h =>
    if d.crcAcc ≠ h.crc then .done d (.err .checksumMismatch)
    else if d.out.length ≠ h.rawSize.toNat then .done d (.err (.inputUnderrun .shortOutput))
    else .run { d with phase := .done }

/-- What a successful `DECOMPRESS` returns (R160, R173): `IN[16..N)` of an `UNCOMPRESSED` container, `OUT` of a stream. -/
def Dec.result (d : Dec) (h : Header) : Buffer := if h.compType = tagUncompressed then d.inp.drop hdrLen else d.out

/-- `DONE`: the result goes to the host. -/
def Dec.handOver (d : Dec) : Tick Dec :=
  match d.hdr with
  | none => .fault (.unwritten .hdr)
  | some h => .done d (.ok (.bytes (d.result h)))

/-- A stage of the engine's own: the end of a copy, the trailing fold, the checks, and handing the result to the host (R160). -/
def Dec.inner (d : Dec) : Tick Dec :=
  match d.phase with
  | .trail => d.foldTrailing
  | .check => d.checks
  | .done => d.handOver
  | .copy => d.endCopy
  | .idle => .outOfPlace
  | .header => .outOfPlace
  | .ctrl => .outOfPlace
  | .token => .outOfPlace

/-! ### The engine -/

/-- The effect of a header or token on the registers; any other instruction has no place here. -/
def Dec.apply (cfg : Config) (i : Instr) (d : Dec) : Tick Dec :=
  match i with
  | .hdrLZFu cs rs c => d.headerLZFu cfg cs rs c
  | .hdrMELA cs rs c => d.headerMELA cs rs c
  | .hdrOther cs rs ct c => d.headerOther cs rs ct c
  | .ctrl k => d.control k
  | .lit b => d.literal b
  | .ref off code => d.reference off code
  | .eos off code => d.endOfStream off code
  | .crc32 _ _ | .compress _ _ | .decompress _ | .parseHeader _ | .lexOpen _ | .lexNext _ | .lexSkip _ _ | .lexClose _ => .outOfPlace
  | .tokenEnd | .tokenGroup _ | .tokenControlSymbol _ | .tokenControlWord _ _ | .tokenText _ => .outOfPlace
  | .rtfOpen | .rtfClose | .rtfControlSymbol _ | .rtfControlWord _ _ _ _ | .rtfLineBreak _ | .rtfText _ => .outOfPlace

/-- One step of a decompressor: read and perform the next element, or a stage of its own (R160). -/
def Dec.tick (cfg : Config) (d : Dec) : Tick Dec :=
  match d.next with
  | .fault f => .fault f
  | .inner => d.inner
  | .read c =>
    match decode c with
    | .error _ => .done d (.err (tooFewBytes c))
    | .ok (i, _) => d.apply cfg i

/-- The steps of a decompressor up to its response, at most `fuel` of them. -/
def Dec.runAll (cfg : Config) : Nat → Dec → Except Fault Response
  | 0, _ => .error .runaway
  | fuel + 1, d =>
    match d.tick cfg with
    | .run d' => Dec.runAll cfg fuel d'
    | .done _ r => .ok r
    | .fault f => .error f
    | .outOfPlace => .error .runaway

/-- Steps enough for any input of `n` bytes: each step of the token loop reads a byte, but for the end of a copy, whose reference read two,
and four more end the command (R175). -/
def Dec.bound (n : Nat) : Nat := n + 8

/-- The response of `DECOMPRESS(data)` (R160). -/
def decompressResponse (cfg : Config) (data : Buffer) : Except Fault Response :=
  Dec.runAll cfg (Dec.bound data.length) (Dec.start .decompress data)

/-- The response of `PARSE_HEADER(data)` (R123). -/
def parseHeaderResponse (cfg : Config) (data : Buffer) : Except Fault Response :=
  Dec.runAll cfg (Dec.bound data.length) (Dec.start .parseHeader data)

end Sys2Proof.Machine
end

