-- ==== Sys2Proof/Machine/Lexer.lean ====
section
/-! DEFINITION. The RTF lexer (45_lexer.md): what each syntax element and each token record does to the registers of 10_state.md rules
R29 and R30, and the engine that reads them. A `LEX_NEXT` reads syntax elements at `LCUR` until one of them, a delimiter or the end of
the buffer yields a token; the token's record is then read and returned to the host. -/

namespace Sys2Proof.Machine

/-- A lexer instance as `LEX_OPEN` leaves it (R180). -/
def Lexer.opened (data : Buffer) : Lexer := { buf := data, cur := 0, state := .ready, run := none }

/-- The transient registers when `Scan()` begins: `LPHASE <- SCAN`, `TSTART <- LCUR` (R182). -/
def LexRun.start (tag cur : Nat) : LexRun :=
  { tag, tstart := cur, kw := none, neg := none, pval := none, pdig := none, lphase := .scan, result := none }

/-- A `LEX_NEXT` in `READY` begins its scan (R181, R182). -/
def Lexer.beginNext (l : Lexer) (tag : Nat) : Lexer := { l with run := some (LexRun.start tag l.cur) }

/-- What a `LEX_NEXT` answers where `LSTATE` alone decides (R181, R199, R200): `none` in `READY`. -/
def Lexer.nextResponse (l : Lexer) : Option Response :=
  match l.state with
  | .failed => some (.err (.invalidArgument .lexerFailed))
  | .exhausted => some (.ok (.token .endOfStream))
  | .ready => none

/-- `LBUF[TSTART..LCUR)`, the pending text (R182). -/
def Lexer.pending (l : Lexer) (r : LexRun) : Buffer := (l.buf.drop r.tstart).take (l.cur - r.tstart)

/-- A token has been found: its record goes on its way to the host. -/
def Lexer.yield (l : Lexer) (r : LexRun) (record : Record) : Lexer := { l with run := some { r with result := some record } }

/-- Flush pending text: the `TEXT` token is found and the delimiter is not consumed (R183, R184, R191). -/
def Lexer.flush (l : Lexer) (r : LexRun) : Lexer := l.yield r (recordText (l.pending r))

/-- The delimiters' common rule: outside a scan there is no place for one; pending text is flushed first; otherwise the delimiter's
own effect, on `n` bytes that must be inside the buffer (R54). -/
def Lexer.delimiter (l : Lexer) (n : Nat) (effect : LexRun → Lexer) : Tick Lexer :=
  match l.run with
  | none => .outOfPlace
  | some r =>
    if r.result.isSome ∨ r.lphase ≠ .scan then .outOfPlace
    else if r.tstart < l.cur then .run (l.flush r)
    else if l.buf.length < l.cur + n then .fault (.outsideBuffer .lbuf)
    else .run (effect r)

/-- `Group(c)` (R183). -/
def Lexer.group (isOpen : Bool) (l : Lexer) : Tick Lexer :=
  l.delimiter 1 (fun r => { l with cur := l.cur + 1 }.yield r (recordGroup isOpen))

/-- `LineBreak()` (R191): a line break with no pending text is consumed and dropped, and the scan goes on. -/
def Lexer.lineBreak (l : Lexer) : Tick Lexer :=
  l.delimiter 1 (fun r => { l with cur := l.cur + 1, run := some { r with tstart := l.cur + 1 } })

/-- `Backslash()` on a control symbol (R184, R185): the backslash and the byte after it are consumed. -/
def Lexer.controlSymbol (c : Byte) (l : Lexer) : Tick Lexer :=
  l.delimiter 2 (fun r => { l with cur := l.cur + 2 }.yield { r with lphase := .ctlFirst } (recordControlSymbol c))

/-- `Backslash()` on a control word (R184, R186 to R190): the backslash, the letters, the sign, the digits and the delimiter space
are consumed, and the keyword and parameter registers hold what was read. -/
def Lexer.controlWord (cfg : Config) (kw : Buffer) (neg : Bool) (digits : Buffer) (space : Bool) (l : Lexer) : Tick Lexer :=
  let len := 1 + kw.length + neg.toNat + digits.length + space.toNat
  l.delimiter len (fun r =>
    { l with cur := l.cur + len }.yield
      { r with kw := some kw, neg := some neg, pval := some (decimalValue digits), pdig := some digits.length, lphase := .space }
      (recordControlWord kw (paramValue cfg neg digits)))

/-- Ordinary bytes are marked as pending text (R182, R194). -/
def Lexer.text (bs : Buffer) (l : Lexer) : Tick Lexer :=
  match l.run with
  | none => .outOfPlace
  | some r =>
    if r.result.isSome ∨ r.lphase ≠ .scan then .outOfPlace
    else if l.buf.length < l.cur + bs.length then .fault (.outsideBuffer .lbuf)
    else .run { l with cur := l.cur + bs.length }

/-- A token's record is returned to the host, which ends the `LEX_NEXT`; the transient registers do not survive it (R30, R88). -/
def Lexer.deliver (t : Token) (l : Lexer) : Tick Lexer :=
  match l.run with
  | none => .outOfPlace
  | some r => if r.result.isNone then .outOfPlace else .done l.endNext (.ok (.token t))

/-- The `END` record: `LSTATE <- EXHAUSTED`, and `END` is returned (R182, R200). -/
def Lexer.deliverEnd (l : Lexer) : Tick Lexer := { l with state := .exhausted }.deliver .endOfStream

/-- `LexFail(sub)` (R198): `LCUR` keeps the value it had when the error was found, `LSTATE <- FAILED`, and `LexError` is raised. -/
def Lexer.fail (l : Lexer) (sub : LexSub) (consumed : Nat) : Tick Lexer :=
  .done { l with cur := l.cur + consumed, state := .failed }.endNext (.err (.lexError sub))

/-- The end of the buffer (R182): pending text is the token found, or else `END`. -/
def Lexer.atEnd (l : Lexer) (r : LexRun) : Tick Lexer :=
  if r.tstart < l.cur then .run (l.flush r) else .run (l.yield r recordEnd)

/-- The place the lexer reads next: the record of the token found, or the syntax at `LCUR` (R54, R182). -/
def Lexer.next (l : Lexer) : Next :=
  match l.run with
  | none => .inner
  | some r =>
    match r.result with
    | some record => .read (.record record)
    | none => if l.buf.length < l.cur then .fault (.outsideBuffer .lbuf) else .read (.rtf (l.buf.drop l.cur))

/-- What the lexer does where it reads no instruction: the end of the buffer, or an error in a control token, before which pending
text is flushed (R182, R184, R198). -/
def Lexer.rejected (l : Lexer) (e : Reject) : Tick Lexer :=
  match l.run with
  | none => .outOfPlace
  | some r =>
    match e with
    | .lexical sub consumed => if r.tstart < l.cur then .run (l.flush r) else l.fail sub consumed
    | .endOfBuffer => l.atEnd r
    | .notACommand _ | .missingOperand | .operandNotU32 | .tooShort | .unknownKind _ => .outOfPlace

/-- The effect of a syntax element or token record on the registers; any other instruction has no place here. -/
def Lexer.apply (cfg : Config) (i : Instr) (l : Lexer) : Tick Lexer :=
  match i with
  | .tokenEnd => l.deliverEnd
  | .tokenGroup isOpen => l.deliver (.group isOpen)
  | .tokenControlSymbol c => l.deliver (.controlSymbol c)
  | .tokenControlWord kw param => l.deliver (.controlWord kw param)
  | .tokenText bs => l.deliver (.text bs)
  | .rtfOpen => l.group true
  | .rtfClose => l.group false
  | .rtfControlSymbol c => l.controlSymbol c
  | .rtfControlWord kw neg ds space => l.controlWord cfg kw neg ds space
  | .rtfLineBreak _ => l.lineBreak
  | .rtfText bs => l.text bs
  | .hdrLZFu _ _ _ | .hdrMELA _ _ _ | .hdrOther _ _ _ _ | .ctrl _ | .lit _ | .ref _ _ | .eos _ _ => .outOfPlace
  | .crc32 _ _ | .compress _ _ | .decompress _ | .parseHeader _ | .lexOpen _ | .lexNext _ | .lexSkip _ _ | .lexClose _ => .outOfPlace

/-- One step of a lexer with a `LEX_NEXT` in progress. -/
def Lexer.tick (cfg : Config) (l : Lexer) : Tick Lexer :=
  match l.next with
  | .fault f => .fault f
  | .inner => .outOfPlace
  | .read c =>
    match decode c with
    | .error e => l.rejected e
    | .ok (i, _) => l.apply cfg i

/-- The steps of a lexer up to the response of its `LEX_NEXT`, at most `fuel` of them. -/
def Lexer.runAll (cfg : Config) : Nat → Lexer → Except Fault (Lexer × Response)
  | 0, _ => .error .runaway
  | fuel + 1, l =>
    match l.tick cfg with
    | .run l' => Lexer.runAll cfg fuel l'
    | .done l' r => .ok (l', r)
    | .fault f => .error f
    | .outOfPlace => .error .runaway

/-- Steps enough for any buffer of `n` bytes: each element but the last consumes a byte (R196). -/
def Lexer.bound (n : Nat) : Nat := n + 4

/-- `LEX_NEXT` as a whole (R181): the instance after it and the response. -/
def Lexer.nextToken (cfg : Config) (l : Lexer) (tag : Nat) : Except Fault (Lexer × Response) :=
  match l.nextResponse with
  | some r => .ok (l, r)
  | none => Lexer.runAll cfg (Lexer.bound l.buf.length) (l.beginNext tag)

/-- `LEX_SKIP(n)` (R192): the instance after it and the response. The checks come in the order of the rule, and every error leaves the
instance unchanged. -/
def Lexer.skip (l : Lexer) (n : Int) : Lexer × Response :=
  match l.state with
  | .failed => (l, .err (.invalidArgument .lexerFailed))
  | .exhausted => (l, .err (.invalidArgument .skipAfterExhausted))
  | .ready =>
    if n ≤ 0 then (l, .err (.invalidArgument .skipNonPositive))
    else if (l.buf.length : Int) - l.cur < n then (l, .err (.invalidArgument .skipTooLong))
    else ({ l with cur := l.cur + n.toNat }, .ok (.bytes ((l.buf.drop l.cur).take n.toNat)))

end Sys2Proof.Machine
end

