-- ==== Sys2Proof/Machine/Commands.lean ====
section
/-! DEFINITION. The meanings of the host commands (30_encoding.md rule R90): each is one transaction from operands to response
(20_memory.md rule R59, 70_reset_and_hazards.md rule R243). -/

namespace Sys2Proof.Machine

/-- The end of a command whose whole course is known: its response, or a model fault. -/
def State.answer (s : State) (r : Except Fault Response) : Host.Outcome State Fault Refusal :=
  match r with
  | .error f => .fault f
  | .ok (.ok v) => .next (s.finish (.ok v))
  | .ok (.err e) => .next (s.raise e)

/-- Run a command on an open lexer instance: a closed or never-opened one is refused (R218), and so is a second command while a
`LEX_NEXT` is in progress on it (R229). -/
def State.onLexer (s : State) (id : Nat) (f : Lexer → Host.Outcome State Fault Refusal) : Host.Outcome State Fault Refusal :=
  match Table.get s.lexers id with
  | none => .refused (.noSuchLexer id)
  | some l => if l.run.isSome then .refused (.lexerBusy id) else f l

/-- `CRC32(crc_in, data)` (R105): fold every byte of `data` into `crc_in`. -/
def execCrc32 (crcIn : Word32) (data : Buffer) (s : State) : Host.Outcome State Fault Refusal :=
  s.answer (.ok (.ok (.word (crc crcIn data))))

/-- `COMPRESS(mode, data)` (R130). -/
def execCompress (mode : Word32) (data : Buffer) (s : State) : Host.Outcome State Fault Refusal :=
  s.answer (compressResponse s.cfg mode data)

/-- `DECOMPRESS(data)` (R160). -/
def execDecompress (data : Buffer) (s : State) : Host.Outcome State Fault Refusal :=
  s.answer (decompressResponse s.cfg data)

/-- `PARSE_HEADER(data)` (R123). -/
def execParseHeader (data : Buffer) (s : State) : Host.Outcome State Fault Refusal :=
  s.answer (parseHeaderResponse s.cfg data)

/-- `LEX_OPEN(data)` (R180): a new instance, `READY`, at the start of its buffer. -/
def execLexOpen (data : Buffer) (s : State) : Host.Outcome State Fault Refusal :=
  .next ((s.openLexer (Lexer.opened data)).finish (.ok (.lexer s.nextLexer)))

/-- `LEX_NEXT(lexer)` (R181): the next token. -/
def execLexNext (lexer : Nat) (s : State) : Host.Outcome State Fault Refusal :=
  s.onLexer lexer (fun l =>
    match l.nextToken s.cfg s.focus with
    | .error f => .fault f
    | .ok (l', r) => (s.putLexer lexer l').answer (.ok r))

/-- `LEX_SKIP(lexer, n)` (R192): the next `n` raw bytes. -/
def execLexSkip (lexer : Nat) (n : Int) (s : State) : Host.Outcome State Fault Refusal :=
  s.onLexer lexer (fun l => (s.putLexer lexer (l.skip n).1).answer (.ok (l.skip n).2))

/-- `LEX_CLOSE(lexer)` (R193): the instance and its borrow end, in every `LSTATE`. -/
def execLexClose (lexer : Nat) (s : State) : Host.Outcome State Fault Refusal :=
  s.onLexer lexer (fun _ => .next ((s.dropLexer lexer).finish (.ok .nothing)))

/-! ### A command whose engine takes its steps one by one (R227) -/

/-- The CRC engine at the start of a `CRC32` command: `CRC_ACC <- crc_in` (R105). -/
def Crc.start (crcIn : Word32) (data : Buffer) : Crc := { inp := data, pos := 0, acc := crcIn }

/-- One step of the CRC engine (R105): fold the next byte, or return `CRC_ACC`. -/
def Crc.tick (c : Crc) : Tick Crc :=
  match c.inp[c.pos]? with
  | some b => .run { c with pos := c.pos + 1, acc := crcStep c.acc b }
  | none => .done c (.ok (.word c.acc))

/-- One step of an engine. -/
def Engine.tick (cfg : Config) : Engine → Tick Engine
  | .crc c =>
    match c.tick with
    | .run c' => .run (.crc c')
    | .done c' r => .done (.crc c') r
    | .fault f => .fault f
    | .outOfPlace => .outOfPlace
  | .comp c =>
    match c.tick cfg with
    | .run c' => .run (.comp c')
    | .done c' r => .done (.comp c') r
    | .fault f => .fault f
    | .outOfPlace => .outOfPlace
  | .dec d =>
    match d.tick cfg with
    | .run d' => .run (.dec d')
    | .done d' r => .done (.dec d') r
    | .fault f => .fault f
    | .outOfPlace => .outOfPlace

/-- What an engine step does to the state: the engine's registers are kept, or the command ends with its response. -/
def State.afterEngine (s : State) (wrap : σ → Engine) (t : Tick σ) : Host.Outcome State Fault Refusal :=
  match t with
  | .run e => .next (s.putEngine (wrap e))
  | .done _ r => s.answer (.ok r)
  | .fault f => .fault f
  | .outOfPlace => .refused .outOfPlace

/-- What a lexer step does to the state: the instance's registers are kept, and the command ends with its response, if any. -/
def State.afterLexer (s : State) (id : Nat) (t : Tick Lexer) : Host.Outcome State Fault Refusal :=
  match t with
  | .run l => .next (s.putLexer id l)
  | .done l r => (s.putLexer id l).answer (.ok r)
  | .fault f => .fault f
  | .outOfPlace => .refused .outOfPlace

end Sys2Proof.Machine
end

