-- ==== Sys2Proof/Machine/Elements.lean ====
section
/-! DEFINITION. The meanings of the container headers and stream tokens (30_encoding.md rules R70 to R79), of the token records (rule
R88) and of the RTF syntax (rule R87): each acts on the registers of the command in focus, in the place where that command reads it.
Outside such a place it is data, not an instruction, and is refused (20_memory.md rule R61). -/

namespace Sys2Proof.Machine

/-- Act on the decompressor of the command in focus. -/
def State.onDec (s : State) (f : Dec → Tick Dec) : Host.Outcome State Fault Refusal :=
  match Table.get s.engines s.focus with
  | some (.dec d) => s.afterEngine .dec (f d)
  | some (.comp _) => .refused .outOfPlace
  | some (.crc _) => .refused .outOfPlace
  | none => .refused .outOfPlace

/-- The lexer whose `LEX_NEXT` has a tag, with its number. -/
def findRun : List (Nat × Lexer) → Nat → Option (Nat × Lexer)
  | [], _ => none
  | (id, l) :: t, tag =>
    match l.run with
    | some r => if r.tag = tag then some (id, l) else findRun t tag
    | none => findRun t tag

/-- Act on the lexer whose `LEX_NEXT` is the command in focus. -/
def State.onScan (s : State) (f : Lexer → Tick Lexer) : Host.Outcome State Fault Refusal :=
  match findRun s.lexers s.focus with
  | some (id, l) => s.afterLexer id (f l)
  | none => .refused .outOfPlace

/-! ### Headers -/

/-- `HDR LZFu` (R122, R123, R160, R162). -/
def execHdrLZFu (compSize rawSize crc : Word32) (s : State) : Host.Outcome State Fault Refusal :=
  s.onDec (Dec.headerLZFu s.cfg compSize rawSize crc)

/-- `HDR MELA` (R122, R123, R173). -/
def execHdrMELA (compSize rawSize crc : Word32) (s : State) : Host.Outcome State Fault Refusal :=
  s.onDec (Dec.headerMELA compSize rawSize crc)

/-- `HDR other` (R122). -/
def execHdrOther (compSize rawSize compType crc : Word32) (s : State) : Host.Outcome State Fault Refusal :=
  s.onDec (Dec.headerOther compSize rawSize compType crc)

/-! ### Stream tokens -/

/-- `CTRL` (R164). -/
def execCtrl (k : Byte) (s : State) : Host.Outcome State Fault Refusal := s.onDec (Dec.control k)

/-- `LIT` (R165). -/
def execLit (b : Byte) (s : State) : Host.Outcome State Fault Refusal := s.onDec (Dec.literal b)

/-- `REF` (R166, R167). -/
def execRef (off : Off12) (code : BitVec 4) (s : State) : Host.Outcome State Fault Refusal := s.onDec (Dec.reference off code)

/-- `EOS` (R166, R170). -/
def execEos (off : Off12) (code : BitVec 4) (s : State) : Host.Outcome State Fault Refusal := s.onDec (Dec.endOfStream off code)

/-! ### Token records -/

/-- `TOKEN END` (R182). -/
def execTokenEnd (s : State) : Host.Outcome State Fault Refusal := s.onScan Lexer.deliverEnd

/-- `TOKEN GROUP` (R183). -/
def execTokenGroup (isOpen : Bool) (s : State) : Host.Outcome State Fault Refusal := s.onScan (Lexer.deliver (.group isOpen))

/-- `TOKEN CONTROL_SYMBOL` (R185). -/
def execTokenControlSymbol (symbol : Byte) (s : State) : Host.Outcome State Fault Refusal :=
  s.onScan (Lexer.deliver (.controlSymbol symbol))

/-- `TOKEN CONTROL_WORD` (R190). -/
def execTokenControlWord (keyword : Buffer) (param : Option Int) (s : State) : Host.Outcome State Fault Refusal :=
  s.onScan (Lexer.deliver (.controlWord keyword param))

/-- `TOKEN TEXT` (R194). -/
def execTokenText (bytes : Buffer) (s : State) : Host.Outcome State Fault Refusal := s.onScan (Lexer.deliver (.text bytes))

/-! ### RTF syntax -/

/-- `RTF {` (R183). -/
def execRtfOpen (s : State) : Host.Outcome State Fault Refusal := s.onScan (Lexer.group true)

/-- `RTF }` (R183). -/
def execRtfClose (s : State) : Host.Outcome State Fault Refusal := s.onScan (Lexer.group false)

/-- `RTF \x` (R184, R185). -/
def execRtfControlSymbol (symbol : Byte) (s : State) : Host.Outcome State Fault Refusal := s.onScan (Lexer.controlSymbol symbol)

/-- `RTF \word[-][digits][ ]` (R184, R186 to R190). -/
def execRtfControlWord (keyword : Buffer) (neg : Bool) (digits : Buffer) (space : Bool) (s : State) :
    Host.Outcome State Fault Refusal :=
  s.onScan (Lexer.controlWord s.cfg keyword neg digits space)

/-- `RTF CR / LF` (R191). -/
def execRtfLineBreak (s : State) : Host.Outcome State Fault Refusal := s.onScan Lexer.lineBreak

/-- `RTF text` (R194). -/
def execRtfText (bytes : Buffer) (s : State) : Host.Outcome State Fault Refusal := s.onScan (Lexer.text bytes)

end Sys2Proof.Machine
end

