-- ==== Sys2Proof/Machine/Dispatch.lean ====
section
/-! DEFINITION. The meaning of each instruction, one arm per row of spec/opcode_table.json. -/

namespace Sys2Proof.Machine

def exec (i : Instr) (s : State) : Host.Outcome State Fault Refusal :=
  match i with
  -- container headers
  | .hdrLZFu compSize rawSize crc => Sys2Proof.Machine.execHdrLZFu compSize rawSize crc s
  | .hdrMELA compSize rawSize crc => Sys2Proof.Machine.execHdrMELA compSize rawSize crc s
  | .hdrOther compSize rawSize compType crc => Sys2Proof.Machine.execHdrOther compSize rawSize compType crc s
  -- stream tokens
  | .ctrl k => Sys2Proof.Machine.execCtrl k s
  | .lit b => Sys2Proof.Machine.execLit b s
  | .ref off code => Sys2Proof.Machine.execRef off code s
  | .eos off code => Sys2Proof.Machine.execEos off code s
  -- host commands
  | .crc32 crcIn data => Sys2Proof.Machine.execCrc32 crcIn data s
  | .compress mode data => Sys2Proof.Machine.execCompress mode data s
  | .decompress data => Sys2Proof.Machine.execDecompress data s
  | .parseHeader data => Sys2Proof.Machine.execParseHeader data s
  | .lexOpen data => Sys2Proof.Machine.execLexOpen data s
  | .lexNext lexer => Sys2Proof.Machine.execLexNext lexer s
  | .lexSkip lexer n => Sys2Proof.Machine.execLexSkip lexer n s
  | .lexClose lexer => Sys2Proof.Machine.execLexClose lexer s
  -- token records
  | .tokenEnd => Sys2Proof.Machine.execTokenEnd s
  | .tokenGroup isOpen => Sys2Proof.Machine.execTokenGroup isOpen s
  | .tokenControlSymbol symbol => Sys2Proof.Machine.execTokenControlSymbol symbol s
  | .tokenControlWord keyword param => Sys2Proof.Machine.execTokenControlWord keyword param s
  | .tokenText bytes => Sys2Proof.Machine.execTokenText bytes s
  -- RTF syntax
  | .rtfOpen => Sys2Proof.Machine.execRtfOpen s
  | .rtfClose => Sys2Proof.Machine.execRtfClose s
  | .rtfControlSymbol symbol => Sys2Proof.Machine.execRtfControlSymbol symbol s
  | .rtfControlWord keyword neg digits space => Sys2Proof.Machine.execRtfControlWord keyword neg digits space s
  | .rtfLineBreak _ => Sys2Proof.Machine.execRtfLineBreak s
  | .rtfText bytes => Sys2Proof.Machine.execRtfText bytes s

end Sys2Proof.Machine
end

