-- ==== Sys2Proof/Machine/Advance.lean ====
section
/-! DEFINITION. How a step comes to an instruction: the host's commands, the steps of commands in progress, and how the word of an
instruction is laid where the next step reads it. -/

namespace Sys2Proof.Machine

/-- Whether a command with a tag is in progress. -/
def State.tagBusy (s : State) (tag : Nat) : Bool :=
  (Table.get s.engines tag).isSome || (findRun s.lexers tag).isSome

/-- Why an instruction was not read, as a refusal. -/
def refusalOf : Reject → Refusal
  | .notACommand code => .notACommand code
  | .missingOperand => .badOperand
  | .operandNotU32 => .badOperand
  | .unknownKind k => .unknownKind k
  | .tooShort => .outOfPlace
  | .endOfBuffer => .outOfPlace
  | .lexical _ _ => .outOfPlace

/-- Run a command to completion (R59): decode it and execute it. -/
def State.runCommand (s : State) (c : HostCommand) : Host.Outcome State Fault Refusal :=
  if s.tagBusy s.focus then .refused (.tagInUse s.focus)
  else
    match decode (.command c) with
    | .error e => .refused (refusalOf e)
    | .ok (i, _) => exec i s

/-- A `LEX_NEXT` that begins: in `READY` its scan is in progress, otherwise `LSTATE` alone answers it (R181). -/
def State.startNext (s : State) (lexer : Nat) : Host.Outcome State Fault Refusal :=
  s.onLexer lexer (fun l =>
    match l.nextResponse with
    | some r => s.answer (.ok r)
    | none => .next (s.putLexer lexer (l.beginNext s.focus)))

/-- Start a command whose engine then takes its steps one by one (R227). `LEX_OPEN`, `LEX_SKIP` and `LEX_CLOSE` are one step. -/
def State.startCommand (s : State) (c : HostCommand) : Host.Outcome State Fault Refusal :=
  if s.tagBusy s.focus then .refused (.tagInUse s.focus)
  else
    match decode (.command c) with
    | .error e => .refused (refusalOf e)
    | .ok (.crc32 crcIn data, _) => .next (s.putEngine (.crc (Crc.start crcIn data)))
    | .ok (.compress mode data, _) => .next (s.putEngine (.comp (Comp.start mode data)))
    | .ok (.decompress data, _) => .next (s.putEngine (.dec (Dec.start .decompress data)))
    | .ok (.parseHeader data, _) => .next (s.putEngine (.dec (Dec.start .parseHeader data)))
    | .ok (.lexNext lexer, _) => s.startNext lexer
    | .ok (i, _) => exec i s

/-- What the command in focus reads next, if it is in progress. -/
def State.next (s : State) : Option Next :=
  match Table.get s.engines s.focus with
  | some (.dec d) => some d.next
  | some (.comp _) => some .inner
  | some (.crc _) => some .inner
  | none => (findRun s.lexers s.focus).map (fun p => p.2.next)

/-- A stage of the engine's own of the command in focus. -/
def State.innerStage (s : State) : Host.Outcome State Fault Refusal :=
  match Table.get s.engines s.focus with
  | some (.dec d) => s.afterEngine .dec d.inner
  | some (.comp c) => s.afterEngine .comp (c.tick s.cfg)
  | some (.crc c) => s.afterEngine .crc c.tick
  | none => .refused (.nothingInProgress s.focus)

/-- What the command in focus does where it reads no instruction: too few bytes (R121, R163, R169), the end of a lexer's buffer or an
error in a control token (R182, R198). -/
def State.rejected (s : State) (c : Code) (e : Reject) : Host.Outcome State Fault Refusal :=
  match c with
  | .record _ => .refused (refusalOf e)
  | .rtf _ => s.onScan (fun l => l.rejected e)
  | .command _ => .refused (refusalOf e)
  | .header _ => s.answer (.ok (.err (tooFewBytes c)))
  | .control _ => s.answer (.ok (.err (tooFewBytes c)))
  | .body _ _ _ => s.answer (.ok (.err (tooFewBytes c)))

/-- The command in focus takes its next step: it reads an instruction and executes it, or performs a stage of its own. -/
def State.advance (s : State) : Host.Outcome State Fault Refusal :=
  match s.next with
  | none => .refused (.nothingInProgress s.focus)
  | some (.fault f) => .fault f
  | some .inner => s.innerStage
  | some (.read c) =>
    match decode c with
    | .error e => s.rejected c e
    | .ok (i, _) => exec i s

/-- Take the host's next move. With no move the block keeps its state (R226). -/
def State.move (s : State) : Host.Outcome State Fault Refusal :=
  match s.moves with
  | [] => .next s
  | .run tag c :: rest => (s.take rest tag).runCommand c
  | .start tag c :: rest => (s.take rest tag).startCommand c
  | .advance tag :: rest => (s.take rest tag).advance

/-! ### Laying an instruction where the next step reads it -/

/-- A tag under which nothing is in progress. -/
def State.freeTag (s : State) : Nat :=
  1 + (s.engines.map Prod.fst).foldl max 0 + (s.lexers.filterMap (fun p => p.2.run.map LexRun.tag)).foldl max 0

/-- Put a move before the host's other moves. -/
def State.prepend (s : State) (m : HostMove) : State := { s with moves := m :: s.moves }

/-- A decompressor in progress that reads a code next: a header at the start of `IN`, a control byte at index 16, a token body at
index 17 behind a control byte with the given first bit, in a dictionary with the given write cursor. -/
def stagedDec (c : Code) : Dec :=
  let d := Dec.start .decompress (List.replicate hdrLen 0x00#8 ++ c.bytes)
  let h : Header := ⟨0, BitVec.ofNat 32 maxMatch, tagCompressed, 0⟩
  match c with
  | .control _ => { d with hdr := some h, ip := some hdrLen, dict := some Dict.new, phase := .ctrl }
  | .body bit wcur bs =>
    { d with inp := List.replicate hdrLen 0x00#8 ++ (if bit then 0x01#8 else 0x00#8) :: bs,
             hdr := some h, ip := some (hdrLen + 1), ctrl := some (if bit then 0x01#8 else 0x00#8), bit := some 0,
             dict := some { Dict.new with wcur := wcur }, phase := .token }
  | .header bs => { d with inp := bs }
  | .command _ => d
  | .record _ => d
  | .rtf _ => d

/-- The number of the lexer that a bare command code and a staged syntax element name: their operand bits are 0. -/
abbrev stagedLexer : Nat := 0

/-- An instruction laid where the next step reads it: a command on the host's port, a header or token in the stream of a decompressor
in progress, a record or syntax element in a lexer with a `LEX_NEXT` in progress. A lexer command finds the instance that its operand
names open over an empty buffer, where the state has none. -/
def State.stage (s : State) (c : Code) : State :=
  let tag := s.freeTag
  match c with
  | .command h =>
    let s := if (Table.get s.lexers h.lexer).isNone && 6 ≤ h.code.toNat then s.putLexer h.lexer (Lexer.opened []) else s
    s.prepend (.run tag h)
  | .header _ => { s with engines := Table.put s.engines tag (.dec (stagedDec c)) }.prepend (.advance tag)
  | .control _ => { s with engines := Table.put s.engines tag (.dec (stagedDec c)) }.prepend (.advance tag)
  | .body _ _ _ => { s with engines := Table.put s.engines tag (.dec (stagedDec c)) }.prepend (.advance tag)
  | .record r =>
    (s.putLexer stagedLexer
      { Lexer.opened [] with run := some { LexRun.start tag 0 with result := some r } }).prepend (.advance tag)
  | .rtf bs => (s.putLexer stagedLexer ((Lexer.opened bs).beginNext tag)).prepend (.advance tag)

end Sys2Proof.Machine
end

