-- ==== Sys2Proof/Machine/Step.lean ====
section
/-! DEFINITION. One step of the machine, and an instruction word of spec/opcode_table.json laid where the next step reads it. -/

namespace Sys2Proof.Machine

/-- One step: the host's next move is taken. -/
def step (s : State) : Host.Outcome State Fault Refusal := s.move

/-- The state with the instruction of an opcode-table word laid where the next step reads it (DESIGN CHOICE, unsafe: log
entry 5). -/
def State.withFetchWord (s : State) (nbits w : Nat) : State := s.stage (tableCode nbits w)

end Sys2Proof.Machine
end

