-- ==== Sys2Proof/Safety.lean ====
section
/-! DEFINITION. What counts as a sound state and a safe run, in the words the claims use: the invariants the spec gives the registers
(10_state.md rules R22 to R30, R34; 44_decompressor.md rule R168; 45_lexer.md rule R195), each as a check that evaluates. -/

namespace Sys2Proof.Machine

/-- A dictionary unit is sound: its memory is canonical and lists ring positions only, and R23 holds: while `FILL < 4096`,
`WCUR = FILL`, and `FILL` is at most 4096. -/
def Dict.sound (d : Dict) : Bool :=
  d.ring.wf && d.ring.all (fun c => decide (c.1 < dictSize)) &&
    decide (d.fill.toNat ≤ dictSize) && (ringFull d.fill || d.wcur.toNat == d.fill.toNat)

/-- A register that may be unwritten satisfies a check: it holds a value, and the value passes. -/
def written {α : Type} (r : Option α) (check : α → Bool) : Bool :=
  match r with
  | none => false
  | some v => check v

/-- The stream registers of a decompressor after its set-up (R27, R162, R168): `16 ≤ IP ≤ N`, and `len(OUT) ≤ H_RAW_SIZE`. -/
def Dec.streamSound (d : Dec) : Bool :=
  written d.ip (fun ip => decide (hdrLen ≤ ip ∧ ip ≤ d.inp.length)) && written d.dict Dict.sound &&
    written d.hdr (fun h => decide (d.out.length ≤ h.rawSize.toNat))

/-- The registers of a decompressor hold what its phase reads (R27, R34). `IDLE` never stands between steps of a command. `COPY` stands
after a copy, with `COPY_I = COPY_LEN`; `DONE` stands after an `UNCOMPRESSED` header, or at the end of a stream (R179). -/
def Dec.sound (d : Dec) : Bool :=
  match d.phase with
  | .idle => false
  | .header => true
  | .ctrl => d.streamSound
  | .token => d.streamSound && written d.ctrl (fun _ => true) && written d.bit (fun b => decide (b < runSlots))
  | .copy =>
    d.streamSound && written d.ctrl (fun _ => true) && written d.bit (fun b => decide (b < runSlots)) && d.copyI.isSome &&
      d.copyI == d.copyLen
  | .trail => d.streamSound && d.eosSeen
  | .check => d.streamSound && d.eosSeen
  | .done => written d.hdr (fun h => h.compType == tagUncompressed) || (d.streamSound && d.eosSeen)

/-- The run registers of a compressor (R25): `CTRL`, `CTRL_POS` inside `OUT`, and a free slot. -/
def Comp.runSound (c : Comp) : Bool :=
  written c.ctrl (fun _ => true) && written c.ctrlPos (fun p => decide (p < c.out.length)) &&
    written c.slot (fun s => decide (s < runSlots)) && !c.finished

/-- The frame registers of a compressor after its set-up (R25, R132): the dictionary unit, the header placeholder, and `IP ≤ N`. -/
def Comp.frameSound (c : Comp) : Bool :=
  written c.dict Dict.sound && decide (hdrLen ≤ c.out.length) && decide (c.ip ≤ c.inp.length)

/-- The registers of a compressor hold what its phase reads (R25, R34). `IDLE` never stands between steps of a command. -/
def Comp.sound (c : Comp) : Bool :=
  match c.phase with
  | .idle => false
  | .check => true
  | .runStart => c.frameSound && !c.finished
  | .search => c.frameSound && c.runSound
  | .emit =>
    c.frameSound && c.runSound &&
      (c.ip == c.inp.length ||
        (written c.best (fun best => decide (best ≤ maxMatch ∧ c.ip + best ≤ c.inp.length)) && written c.bestOff (fun _ => true)))
  | .finalize => c.frameSound && c.finished
  | .done => true

/-- An engine is sound. -/
def Engine.sound : Engine → Bool
  | .crc _ => true
  | .comp c => c.sound
  | .dec d => d.sound

/-- A scan is sound: pending text lies inside the buffer, the lexer is `READY`, and the scan is in `SCAN` until it has found a token,
whose record has a kind code (R30, R88, R182). -/
def LexRun.sound (r : LexRun) (l : Lexer) : Bool :=
  decide (r.tstart ≤ l.cur) && l.state == .ready &&
    (match r.result with
     | none => r.lphase == .scan
     | some rec => decide (rec.kind ≤ 4))

/-- A lexer is sound: `LCUR ≤ LN` (R29), and so is its scan, if any. -/
def Lexer.sound (l : Lexer) : Bool :=
  decide (l.cur ≤ l.buf.length) &&
    (match l.run with
     | none => true
     | some r => r.sound l)

/-- The numbers of a table rise. -/
def risingKeys {α : Type} : List (Nat × α) → Bool
  | [] => true
  | (k, _) :: t => t.all (fun p => decide (k < p.1)) && risingKeys t

/-- The invariant of the block: every engine and every lexer is sound, the tables' numbers rise, and no lexer has a number yet to be
given. -/
def State.inv (s : State) : Bool :=
  s.engines.all (fun p => p.2.sound) && s.lexers.all (fun p => p.2.sound) && risingKeys s.engines && risingKeys s.lexers &&
    s.lexers.all (fun p => decide (p.1 < s.nextLexer))

/-- A step that does not end in a model fault. -/
def Outcome.noFault {σ φ ρ : Type} (o : Host.Outcome σ φ ρ) : Prop := ∀ f, o ≠ .fault f

/-- A run of `n` steps that does not end in a model fault: none of the machine's rules read an unwritten register or went outside a
buffer (R34, R54, R219). -/
def safeFor (n : Nat) (s : State) : Prop := Outcome.noFault (Host.Core.run Sys2Proof.core n s)

/-! ### Words for the claims -/

/-- The decompressor in focus waits for a token body (R160): its slot `bit` of the control byte `ctrl`, its next payload index `ip`,
its dictionary unit and its header fields. -/
def Dec.atToken (d : Dec) (ip bit : Nat) (ctrl : Byte) (dict : Dict) (h : Header) : Prop :=
  d.phase = .token ∧ d.ip = some ip ∧ d.bit = some bit ∧ d.ctrl = some ctrl ∧ d.dict = some dict ∧ d.hdr = some h

/-- A compressor after a token that is not the EOS (R133): the next slot's search, or after slot 7 the run's control byte at `CTRL_POS`
and a new run. -/
def Comp.afterToken (c : Comp) (ctrl : Byte) (slot pos : Nat) : Comp :=
  if slot + 1 < runSlots then { c with slot := some (slot + 1), phase := .search }
  else { c with slot := some (slot + 1), out := c.out.set pos ctrl, phase := .runStart }

/-- An open lexer instance with no `LEX_NEXT` in progress. -/
def State.hasLexer (s : State) (id : Nat) (l : Lexer) : Prop := Table.get s.lexers id = some l ∧ l.run = none

/-- The lexer in focus scans (R182): its `LEX_NEXT` is in progress in `SCAN` and no token has been found yet. -/
def State.scans (s : State) (id : Nat) (l : Lexer) (r : LexRun) : Prop :=
  findRun s.lexers s.focus = some (id, l) ∧ l.run = some r ∧ r.result = none ∧ r.lphase = .scan

/-- The lexer instance an instruction acts on: the one a lexer command names or opens, or the one whose `LEX_NEXT` is in focus. -/
def lexerOf (i : Instr) (s : State) : Option Nat :=
  match i with
  | .lexOpen _ => some s.nextLexer
  | .lexNext id => some id
  | .lexSkip id _ => some id
  | .lexClose id => some id
  | .tokenEnd | .tokenGroup _ | .tokenControlSymbol _ | .tokenControlWord _ _ | .tokenText _ =>
    (findRun s.lexers s.focus).map Prod.fst
  | .rtfOpen | .rtfClose | .rtfControlSymbol _ | .rtfControlWord _ _ _ _ | .rtfLineBreak _ | .rtfText _ =>
    (findRun s.lexers s.focus).map Prod.fst
  | .hdrLZFu _ _ _ | .hdrMELA _ _ _ | .hdrOther _ _ _ _ | .ctrl _ | .lit _ | .ref _ _ | .eos _ _ => none
  | .crc32 _ _ | .compress _ _ | .decompress _ | .parseHeader _ => none

/-- The payload that spells a byte sequence by literals alone (R74 to R76, R79): full runs of eight literals, and a final run of the
rest and the EOS, whose offset is `w`. -/
def literalPayload (w : Off12) : Buffer → Buffer
  | b0 :: b1 :: b2 :: b3 :: b4 :: b5 :: b6 :: b7 :: rest =>
    [0x00#8, b0, b1, b2, b3, b4, b5, b6, b7] ++ literalPayload w rest
  | last => (1#8 <<< last.length) :: last ++ [refHigh w, refLow w 0]

/-- The write cursor after the bytes of a sequence: `(207 + N) mod 4096` (R139). -/
def cursorAfter (bs : Buffer) : Off12 := BitVec.ofNat 12 (seedLen + bs.length)

/-- The container of a payload (R70). -/
def container (cs rs ct crcVal : Word32) (payload : Buffer) : Buffer := headerBytes cs rs ct crcVal ++ payload

end Sys2Proof.Machine
end

