-- ==== Sys2Proof/Certificates/Slice0/Obligations.lean ====
section
/-! DEFINITION. What the provers are asked to prove of the model. Each definition is one statement; OBLIGATIONS.json gives its rule. -/

open Sys2Proof Sys2Proof.Machine

/-! ### Encoding -/

/-- The decoder gives back every well-formed instruction from its encoding, whatever may follow it. -/
def Obligations.DecodeOfEncodeGivesTheInstruction : Prop :=
  ∀ (i : Instr) (rest : Buffer), i.wf = true → follows i rest = true → decode ((encode i).append rest) = .ok (i, rest)

/-- What the decoder reads is well-formed (a token record apart, which nothing checks), and its encoding with the bytes left over is
what stood there: no byte is dropped or added, and every word has one meaning. -/
def Obligations.DecodedInstructionReencodesToItsBytes : Prop :=
  ∀ (c : Code) (i : Instr) (rest : Buffer), decode c = .ok (i, rest) →
    (encode i).bytes ++ rest = c.bytes ∧ ((∀ r, c ≠ .record r) → i.wf = true)

/-- Two bytes where a reference is due: 12 bits of offset, high byte first, then 4 bits of code (the layout is the spec's decision
D8); at the write cursor it is the EOS, whatever the code, and the bytes are read from the front of any payload. -/
def Obligations.ReferenceBodyLayout : Prop :=
  ∀ (wcur off : Off12) (code : BitVec 4) (rest : Buffer),
    decode (.body true wcur (BitVec.ofNat 8 (off.toNat / 16) :: BitVec.ofNat 8 (off.toNat % 16 * 16 + code.toNat) :: rest)) =
      .ok (if off = wcur then .eos off code else .ref off code, rest)

/-- Words written out from the spec's tables decode to the instructions they stand for (95_test_vectors.md sections 1.2 and 2.5). The
table gives 0x03 to several rows; that `decodeTableWord` reads it as a command is the model's choice (log entry 6). -/
def Obligations.WrittenOutWordsDecode : Prop :=
  decode (.body true 230 [0x0A#8, 0xF3#8]) = .ok (.ref 0x0AF 3, []) ∧
    decode (.body true 0x0FA [0x0F#8, 0xA0#8]) = .ok (.eos 0x0FA 0, []) ∧
    decode (.header [0x2D#8, 0, 0, 0, 0x2B#8, 0, 0, 0, 0x4C#8, 0x5A#8, 0x46#8, 0x75#8, 0xF1#8, 0xC5#8, 0xC7#8, 0xA7#8, 0x03#8]) =
      .ok (.hdrLZFu 45 43 0xA7C7C5F1, [0x03#8]) ∧
    decode (.rtf [0x5C#8, 0x66#8, 0x73#8, 0x2D#8, 0x32#8, 0x34#8, 0x20#8, 0x78#8]) =
      .ok (.rtfControlWord [0x66#8, 0x73#8] true [0x32#8, 0x34#8] true, [0x78#8]) ∧
    decodeTableWord 8 0x03 = some (.decompress [])

/-! ### The step -/

/-- A host command on the port, under a tag not in use: a step is exec of the decoded instruction, with the move taken and its tag in
focus. With no move the state stays. A code other than 0x01 to 0x08 is refused by name. -/
def Obligations.StepRunsTheDecodedCommand : Prop :=
  ∀ (s : State), (s.moves = [] → step s = .next s) ∧
    (∀ (tag : Nat) (c : HostCommand) (rest : List HostMove), s.moves = .run tag c :: rest → s.tagBusy tag = false →
      (∀ (i : Instr) (bs : Buffer), decode (.command c) = .ok (i, bs) → i.wf = true ∧ step s = exec i (s.take rest tag)) ∧
        (c.code = 0 ∨ 8 < c.code.toNat → step s = .refused (.notACommand c.code)))

/-- A command in progress that reads a header, token, record or syntax element next: a step is exec of the decoded instruction, with
the move taken and its tag in focus. The move, the tag and the focus (log entry 2), the record as an element of its own (log entry 9)
and one element a step (log entry 15) are the model's choice. -/
def Obligations.StepRunsTheDecodedElement : Prop :=
  ∀ (s : State) (tag : Nat) (rest : List HostMove) (c : Code) (i : Instr) (bs : Buffer),
    s.moves = .advance tag :: rest → (s.take rest tag).next = some (.read c) → decode c = .ok (i, bs) →
    step s = exec i (s.take rest tag)

/-- In every sound state, any command run as one transaction ends as the same command does whose engine takes its steps one by one. The
moves and tags (log entry 2), the grain of a step (log entry 15) and the refusal of a tag in use (log entry 16) are the model's choice. -/
def Obligations.TransactionEqualsStepByStep : Prop :=
  ∀ (s : State) (tag : Nat) (c : HostCommand), s.inv = true → s.tagBusy tag = false →
    ∃ k : Nat,
      Host.Core.run Sys2Proof.core (k + 1)
          ({ s with moves := .start tag c :: List.replicate k (.advance tag) } : State) =
        Host.Core.run Sys2Proof.core 1 ({ s with moves := [.run tag c] } : State)

/-- After reset: no command is running, every phase register is IDLE, FINISHED and EOS_SEEN are 0, no dictionary unit and no lexer
instance exists, and the ROMs hold their content: SEED_ROM the 207 bytes of R84 (the spec's decision D9), and CRC_TABLE what the
generation loop gives (decision D11). The reset state is decision D33. -/
def Obligations.ResetState : Prop :=
  (∀ tag : Nat, State.reset.tagBusy tag = false ∧ State.reset.cphase tag = .idle ∧ State.reset.dphase tag = .idle ∧
      State.reset.finished tag = false ∧ State.reset.eosSeen tag = false ∧ State.reset.dictOf tag = none) ∧
    (∀ id : Nat, Table.get State.reset.lexers id = none) ∧
    seedRom.map BitVec.toNat =
        ([0x7B, 0x5C, 0x72, 0x74, 0x66, 0x31, 0x5C, 0x61, 0x6E, 0x73, 0x69, 0x5C, 0x6D, 0x61, 0x63, 0x5C]
          ++ [0x64, 0x65, 0x66, 0x66, 0x30, 0x5C, 0x64, 0x65, 0x66, 0x74, 0x61, 0x62, 0x37, 0x32, 0x30, 0x7B]
          ++ [0x5C, 0x66, 0x6F, 0x6E, 0x74, 0x74, 0x62, 0x6C, 0x3B, 0x7D, 0x7B, 0x5C, 0x66, 0x30, 0x5C, 0x66]
          ++ [0x6E, 0x69, 0x6C, 0x20, 0x5C, 0x66, 0x72, 0x6F, 0x6D, 0x61, 0x6E, 0x20, 0x5C, 0x66, 0x73, 0x77]
          ++ [0x69, 0x73, 0x73, 0x20, 0x5C, 0x66, 0x6D, 0x6F, 0x64, 0x65, 0x72, 0x6E, 0x20, 0x5C, 0x66, 0x73]
          ++ [0x63, 0x72, 0x69, 0x70, 0x74, 0x20, 0x5C, 0x66, 0x64, 0x65, 0x63, 0x6F, 0x72, 0x20, 0x4D, 0x53]
          ++ [0x20, 0x53, 0x61, 0x6E, 0x73, 0x20, 0x53, 0x65, 0x72, 0x69, 0x66, 0x53, 0x79, 0x6D, 0x62, 0x6F]
          ++ [0x6C, 0x41, 0x72, 0x69, 0x61, 0x6C, 0x54, 0x69, 0x6D, 0x65, 0x73, 0x20, 0x4E, 0x65, 0x77, 0x20]
          ++ [0x52, 0x6F, 0x6D, 0x61, 0x6E, 0x43, 0x6F, 0x75, 0x72, 0x69, 0x65, 0x72, 0x7B, 0x5C, 0x63, 0x6F]
          ++ [0x6C, 0x6F, 0x72, 0x74, 0x62, 0x6C, 0x5C, 0x72, 0x65, 0x64, 0x30, 0x5C, 0x67, 0x72, 0x65, 0x65]
          ++ [0x6E, 0x30, 0x5C, 0x62, 0x6C, 0x75, 0x65, 0x30, 0x0D, 0x0A, 0x5C, 0x70, 0x61, 0x72, 0x20, 0x5C]
          ++ [0x70, 0x61, 0x72, 0x64, 0x5C, 0x70, 0x6C, 0x61, 0x69, 0x6E, 0x5C, 0x66, 0x30, 0x5C, 0x66, 0x73]
          ++ [0x32, 0x30, 0x5C, 0x62, 0x5C, 0x69, 0x5C, 0x75, 0x5C, 0x74, 0x61, 0x62, 0x5C, 0x74, 0x78]) ∧
    crcTable = (List.range 256).map crcEntry

/-- The state after reset is sound. -/
def Obligations.ResetIsSound : Prop := State.reset.inv = true

/-- Every step from a sound state, not only from a run, leads to a sound one: rings stay canonical and keep R23, IP, LCUR and OUT stay
in their bounds, and the registers each phase reads stay written. -/
def Obligations.StepKeepsSoundness : Prop :=
  ∀ s t : State, s.inv = true → step s = .next t → t.inv = true

/-- No step from a sound state reads an unwritten register, goes outside a buffer, or fails to end. -/
def Obligations.SoundStatesNeverFault : Prop :=
  ∀ s : State, s.inv = true → Outcome.noFault (step s)

/-- A step adds at most one response, the one of the command in focus, and no step changes the parameters. -/
def Obligations.StepAddsAtMostOneResponse : Prop :=
  ∀ s t : State, step s = .next t →
    t.cfg = s.cfg ∧ (t.responses = s.responses ∨ ∃ r, t.responses = s.responses ++ [(t.focus, r)])

/-- No instruction changes the registers of another command's engine, or a lexer instance other than the one it acts on. -/
def Obligations.InstancesAreIsolated : Prop :=
  ∀ (i : Instr) (s t : State), exec i s = .next t →
    t.focus = s.focus ∧ t.moves = s.moves ∧
      (∀ tag, tag ≠ s.focus → Table.get t.engines tag = Table.get s.engines tag) ∧
      (∀ id, lexerOf i s ≠ some id → Table.get t.lexers id = Table.get s.lexers id)

/-! ### The dictionary unit -/

/-- A fresh dictionary holds the seed at 0 to 206 and 0x00 at 207 to 4095, with the write cursor and the fill at 207. The zeros are the
spec's decision D10. -/
def Obligations.FreshDictionaryContent : Prop :=
  (∀ o : Off12, Dict.new.read o = if o.toNat < 207 then seedRom.getD o.toNat 0 else 0x00#8) ∧
    Dict.new.wcur = 207 ∧ Dict.new.fill = 207

/-- A push writes the byte at the write cursor and nothing else, advances the cursor modulo 4096 and the fill up to 4096, and keeps the
memory canonical. The canonical memory is the model's form of the ring (log entry 4). -/
def Obligations.PushWritesAtTheCursor : Prop :=
  ∀ (d : Dict) (b : Byte), d.ring.wf = true →
    (d.push b).read d.wcur = b ∧ (∀ o, o ≠ d.wcur → (d.push b).read o = d.read o) ∧
      (d.push b).wcur.toNat = (d.wcur.toNat + 1) % 4096 ∧
      (d.fill.toNat < 4096 → (d.push b).fill.toNat = d.fill.toNat + 1) ∧ (d.fill.toNat = 4096 → (d.push b).fill = d.fill) ∧
      (d.push b).ring.wf = true

/-- After any sequence of pushes into a fresh dictionary the cursor and the fill depend on its length alone, and the last up to 4096
bytes stand at the cursor's places. -/
def Obligations.PushesFillTheWindow : Prop :=
  ∀ bs : Buffer,
    (Dict.new.pushAll bs).wcur.toNat = (207 + bs.length) % 4096 ∧
      (Dict.new.pushAll bs).fill.toNat = min 4096 (207 + bs.length) ∧
      (∀ i : Nat, i < bs.length → bs.length ≤ i + 4096 →
        (Dict.new.pushAll bs).read (BitVec.ofNat 12 (207 + i)) = bs.getD i 0)

/-! ### CRC -/

/-- CRC32 completes on all operands: its result is the fold of the bytes with the entries of the generation loop (the loop, the constant
and the step are the spec's decision D11), and it changes nothing but the response. -/
def Obligations.Crc32FoldsEveryByte : Prop :=
  ∀ (crcIn : Word32) (data : Buffer) (s : State),
    exec (.crc32 crcIn data) s =
      .next (s.finish (.ok (.word
        (data.foldl (fun c b => crcEntry ((c ^^^ b.setWidth 32).toNat % 256) ^^^ (c >>> 8)) crcIn))))

/-- Every single-bit change of a byte sequence changes its CRC. -/
def Obligations.CrcDetectsEverySingleBitFlip : Prop :=
  ∀ (c : Word32) (p : Buffer) (i j : Nat), i < p.length → j < 8 →
    crc c (p.modify i (fun b => b ^^^ (1#8 <<< j))) ≠ crc c p

/-! ### Headers -/

/-- PARSE_HEADER completes on every container of a known type: it returns the four fields as they stand, whatever the payload. -/
def Obligations.ParseHeaderReturnsTheFields : Prop :=
  ∀ (cs rs ct crcVal : Word32) (payload : Buffer) (s : State), ct = tagCompressed ∨ ct = tagUncompressed →
    exec (.parseHeader (container cs rs ct crcVal payload)) s = .next (s.finish (.ok (.header ⟨cs, rs, ct, crcVal⟩)))

/-- A buffer shorter than 16 bytes is MalformedHeader(TooShort) for both commands that read a header, whatever it holds. -/
def Obligations.ShortContainersAreTooShort : Prop :=
  ∀ (data : Buffer) (s : State), data.length < 16 →
    exec (.parseHeader data) s = .next (s.raise (.malformedHeader .tooShort)) ∧
      exec (.decompress data) s = .next (s.raise (.malformedHeader .tooShort))

/-- What both commands refuse in a whole header: any other type is MalformedHeader(UnknownCompType), and DECOMPRESS answers a COMPRESSED
container that declares more than MAX_OUT with InputTooLarge(OutputLimit), whatever its payload (the spec's decision D18). -/
def Obligations.HeaderFieldErrors : Prop :=
  ∀ (cs rs ct crcVal : Word32) (payload : Buffer) (s : State),
    (ct ≠ tagCompressed → ct ≠ tagUncompressed →
        exec (.parseHeader (container cs rs ct crcVal payload)) s = .next (s.raise (.malformedHeader .unknownCompType)) ∧
          exec (.decompress (container cs rs ct crcVal payload)) s = .next (s.raise (.malformedHeader .unknownCompType))) ∧
      (s.cfg.maxOut < rs.toNat →
        exec (.decompress (container cs rs tagCompressed crcVal payload)) s = .next (s.raise (.inputTooLarge .outputLimit)))

/-! ### Compressor -/

/-- COMPRESS in UNCOMPRESSED mode completes where the sizes fit: the header with comp_size = N + 12, raw_size = N and crc = 0, and the
input verbatim. -/
def Obligations.CompressRawMode : Prop :=
  ∀ (data : Buffer) (s : State), data.length + 12 ≤ maxField → data.length + 16 ≤ s.cfg.maxOut →
    exec (.compress tagUncompressed data) s =
      .next (s.finish (.ok (.bytes
        (container (BitVec.ofNat 32 (data.length + 12)) (BitVec.ofNat 32 data.length) tagUncompressed 0 data))))

/-- The errors of COMPRESS, in their order: an unknown mode, an input too long for the size fields, an input over the platform's limit
(the order is the spec's decision D27), and, on the final output of COMPRESSED mode, a length beyond comp_size and one beyond MAX_OUT;
with neither, the header is patched. That FINALIZE is one step is the model's choice (log entries 2, 15 and 24). Last, the same of a whole
command: what COMPRESS answers under some limits is OutputLimit under a MAX_OUT it does not fit. -/
def Obligations.CompressRefusalsInOrder : Prop :=
  (∀ (mode : Word32) (data : Buffer) (s : State), mode ≠ tagCompressed → mode ≠ tagUncompressed →
      exec (.compress mode data) s = .next (s.raise (.invalidArgument .unknownMode))) ∧
    (∀ (data : Buffer) (s : State), maxField < data.length →
      exec (.compress tagCompressed data) s = .next (s.raise (.inputTooLarge .sizeField))) ∧
    (∀ (data : Buffer) (s : State), maxField < data.length + 12 →
      exec (.compress tagUncompressed data) s = .next (s.raise (.inputTooLarge .sizeField))) ∧
    (∀ (data : Buffer) (s : State), data.length ≤ maxField → s.cfg.maxInCompressed < data.length →
      exec (.compress tagCompressed data) s = .next (s.raise (.inputTooLarge .inputLimit))) ∧
    (∀ (data : Buffer) (s : State), data.length + 12 ≤ maxField → s.cfg.maxOut < data.length + 16 →
      exec (.compress tagUncompressed data) s = .next (s.raise (.inputTooLarge .outputLimit))) ∧
    (∀ (s : State) (tag : Nat) (rest : List HostMove) (c : Comp),
      s.moves = .advance tag :: rest → Table.get s.engines tag = some (.comp c) → c.phase = .finalize → c.mode = tagCompressed →
      16 ≤ c.out.length →
      step s =
        if maxField < c.out.length - 4 then .next ((s.take rest tag).raise (.inputTooLarge .sizeField))
        else if s.cfg.maxOut < c.out.length then .next ((s.take rest tag).raise (.inputTooLarge .outputLimit))
        else .next ((s.take rest tag).putEngine (.comp { c with
          crcAcc := crc 0 (c.out.drop 16), phase := .done,
          out := container (BitVec.ofNat 32 (c.out.length - 4)) (BitVec.ofNat 32 c.inp.length) tagCompressed
            (crc 0 (c.out.drop 16)) (c.out.drop 16) }))) ∧
    (∀ (data out : Buffer) (s t : State),
      exec (.compress tagCompressed data) s = .next (s.finish (.ok (.bytes out))) →
      data.length ≤ t.cfg.maxInCompressed → t.cfg.maxOut < out.length →
      exec (.compress tagCompressed data) t = .next (t.raise (.inputTooLarge .outputLimit)))

/-- COMPRESS in COMPRESSED mode completes on every input whose worst case fits the limits, with a container whose header names its own
length, the input's length and the CRC of its payload, of 19 to N + N/8 + 19 bytes. -/
def Obligations.CompressCompletesWithinTheWorstCase : Prop :=
  ∀ (data : Buffer) (s : State),
    data.length ≤ s.cfg.maxInCompressed → data.length + data.length / 8 + 19 ≤ s.cfg.maxOut →
    data.length + data.length / 8 + 15 ≤ maxField →
    ∃ payload : Buffer,
      exec (.compress tagCompressed data) s =
          .next (s.finish (.ok (.bytes
            (container (BitVec.ofNat 32 (payload.length + 12)) (BitVec.ofNat 32 data.length) tagCompressed (crc 0 payload)
              payload)))) ∧
        3 ≤ payload.length ∧ payload.length ≤ data.length + data.length / 8 + 3

/-- COMPRESS always answers, on every mode, input and state, and its response depends on its operands and the parameters alone. -/
def Obligations.CompressAlwaysAnswers : Prop :=
  ∀ (cfg : Config) (mode : Word32) (data : Buffer),
    ∃ r : Response, ∀ s : State, s.cfg = cfg → exec (.compress mode data) s = .next (s.finish r)

/-- A search pushes exactly the bytes its token consumes, in order: the match, or one byte where there is none. -/
def Obligations.SearchPushesWhatItConsumes : Prop :=
  ∀ (d : Dict) (upcoming : Buffer), upcoming ≠ [] →
    (endSearch upcoming (searchAll d upcoming)).best ≤ upcoming.length ∧
      (endSearch upcoming (searchAll d upcoming)).dict =
        d.pushAll (upcoming.take (max 1 (endSearch upcoming (searchAll d upcoming)).best))

/-- The search tries the offsets W0 + 1 + K for K = 0 to 4094, those that the fill at its start makes valid, in this order (that the write
cursor is no candidate is the spec's decision D5). A candidate's length is the number of upcoming bytes up to the first that differs from
the live ring, which holds the bytes confirmed beyond the best so far (decision D6); it replaces the best on strict improvement only, so
that the earliest scanned of equal length stays. So a match found never stands at the write cursor, nor, while the ring is not full, at
or above the fill. Last, what SEARCH keeps of it, over at most 17 bytes; that SEARCH is one step, and EMIT the next, is the model's choice
(log entries 2, 15 and 24). -/
def Obligations.SearchPicksItsCandidate : Prop :=
  (∀ (d : Dict) (upcoming : Buffer), (searchAll d upcoming).best ≠ 0 →
      (searchAll d upcoming).bestOff ≠ d.wcur ∧
        (d.fill.toNat ≠ 4096 → (searchAll d upcoming).bestOff.toNat < d.fill.toNat)) ∧
    (∀ (upcoming : Buffer) (o : Off12) (s : Search),
      let len := (matchFrom o s.best upcoming 0 s.dict).1
      (tryCandidate upcoming o s).best = max s.best len ∧
        (tryCandidate upcoming o s).bestOff = if s.best < len then o else s.bestOff) ∧
    (∀ (d : Dict) (upcoming : Buffer),
      searchAll d upcoming =
        (((List.range 4095).map (fun k => d.wcur + 1 + BitVec.ofNat 12 k)).filter
            (fun o => d.fill.toNat = 4096 ∨ o.toNat < d.fill.toNat)).foldl
          (fun s o => tryCandidate upcoming o s) { dict := d, best := 0, bestOff := 0, m := none }) ∧
    (∀ (o : Off12) (best : Nat) (upcoming : Buffer) (d : Dict),
      let len := (matchFrom o best upcoming 0 d).1
      let live := fun i : Nat => d.pushAll ((upcoming.take i).drop best)
      len ≤ upcoming.length ∧ (∀ i, i < len → (live i).read (o + BitVec.ofNat 12 i) = upcoming.getD i 0) ∧
        (len < upcoming.length → (live len).read (o + BitVec.ofNat 12 len) ≠ upcoming.getD len 0) ∧
        (matchFrom o best upcoming 0 d).2 = live len) ∧
    (∀ (s : State) (tag : Nat) (rest : List HostMove) (c : Comp) (d : Dict),
      s.moves = .advance tag :: rest → Table.get s.engines tag = some (.comp c) → c.phase = .search → c.dict = some d →
      c.ip ≠ c.inp.length →
      let cap := min 17 (c.inp.length - c.ip)
      let upcoming := (c.inp.drop c.ip).take cap
      let r := searchAll d upcoming
      step s = .next ((s.take rest tag).putEngine (.comp { c with
        w0 := some d.wcur, fill0 := some d.fill, cap := some cap, best := some r.best, bestOff := some r.bestOff, k := some 4094,
        m := r.m, dict := some (if r.best = 0 then r.dict.pushAll (upcoming.take 1) else r.dict), phase := .emit })))

/-- A compressor in EMIT, in any slot: a literal where the best match is shorter than 2, else a reference with its control bit, and then the
next slot, or after slot 7 the run's control byte at CTRL_POS; the EOS with its control bit where the input is used up, after which the
run ends. That one step performs a token's emission with the end of its run, and which CPHASE follows, is the model's choice (log entries
2, 15 and 24). -/
def Obligations.CompressorEmitsItsToken : Prop :=
  ∀ (s : State) (tag : Nat) (rest : List HostMove) (c : Comp) (d : Dict) (ctrl : Byte) (slot pos : Nat),
    s.moves = .advance tag :: rest → Table.get s.engines tag = some (.comp c) → c.phase = .emit → c.finished = false →
    c.dict = some d → c.ctrl = some ctrl → c.slot = some slot → c.ctrlPos = some pos → pos < c.out.length →
    (∀ b best off, c.inp[c.ip]? = some b → c.best = some best → c.bestOff = some off → best < 2 →
        step s = .next ((s.take rest tag).putEngine (.comp (
          { c with out := c.out ++ [b], ip := c.ip + 1 }.afterToken ctrl slot pos)))) ∧
      (∀ best off, c.ip ≠ c.inp.length → c.best = some best → c.bestOff = some off → 2 ≤ best →
        step s = .next ((s.take rest tag).putEngine (.comp (
          { c with
            ctrl := some (ctrl ||| 1#8 <<< slot), out := c.out ++ [refHigh off, refLow off (BitVec.ofNat 4 (best - 2))],
            ip := c.ip + best }.afterToken (ctrl ||| 1#8 <<< slot) slot pos)))) ∧
      (c.ip = c.inp.length →
        step s = .next ((s.take rest tag).putEngine (.comp { c with
          ctrl := some (ctrl ||| 1#8 <<< slot), finished := true, slot := some (slot + 1), phase := .finalize,
          out := (c.out ++ [refHigh d.wcur, refLow d.wcur 0]).set pos (ctrl ||| 1#8 <<< slot) })))

/-! ### Decompressor commands -/

/-- DECOMPRESS completes on every UNCOMPRESSED container: the payload verbatim, no field checked (the spec's decision D17). -/
def Obligations.DecompressRawContainer : Prop :=
  ∀ (cs rs crcVal : Word32) (payload : Buffer) (s : State),
    exec (.decompress (container cs rs tagUncompressed crcVal payload)) s = .next (s.finish (.ok (.bytes payload)))

/-- The round trip of UNCOMPRESSED mode: whatever COMPRESS accepts, DECOMPRESS of its container gives back. -/
def Obligations.RawRoundTrip : Prop :=
  ∀ (data out : Buffer) (s : State),
    exec (.compress tagUncompressed data) s = .next (s.finish (.ok (.bytes out))) →
    exec (.decompress out) s = .next (s.finish (.ok (.bytes data)))

/-- The round trip of COMPRESSED mode up to 3874 bytes, the bound the spec derives: DECOMPRESS of the container COMPRESS makes gives the
input back, where MAX_OUT lets DECOMPRESS declare it. -/
def Obligations.CompressedRoundTrip : Prop :=
  ∀ (data out : Buffer) (s : State), data.length ≤ 3874 → data.length ≤ s.cfg.maxOut →
    exec (.compress tagCompressed data) s = .next (s.finish (.ok (.bytes out))) →
    exec (.decompress out) s = .next (s.finish (.ok (.bytes data)))

/-- DECOMPRESS completes on the all-literal stream of every byte sequence that fits, with that sequence, whatever comp_size says. -/
def Obligations.LiteralStreamsDecode : Prop :=
  ∀ (cs : Word32) (bs : Buffer) (s : State), bs.length ≤ maxField → bs.length ≤ s.cfg.maxOut →
    exec (.decompress (container cs (BitVec.ofNat 32 bs.length) tagCompressed
        (crc 0 (literalPayload (cursorAfter bs) bs)) (literalPayload (cursorAfter bs) bs))) s =
      .next (s.finish (.ok (.bytes bs)))

/-- DECOMPRESS always answers, on every input and state, and its response depends on its operand and the parameters alone. -/
def Obligations.DecompressAlwaysAnswers : Prop :=
  ∀ (cfg : Config) (data : Buffer),
    ∃ r : Response, ∀ s : State, s.cfg = cfg → exec (.decompress data) s = .next (s.finish r)

/-- A COMPRESSED container that DECOMPRESS accepts has the CRC of its whole payload in its header, and its output has exactly the
declared length, within MAX_OUT. -/
def Obligations.AcceptedContainersAreChecked : Prop :=
  ∀ (cs rs crcVal : Word32) (payload out : Buffer) (s : State),
    exec (.decompress (container cs rs tagCompressed crcVal payload)) s = .next (s.finish (.ok (.bytes out))) →
    crcVal = crc 0 payload ∧ out.length = rs.toNat ∧ rs.toNat ≤ s.cfg.maxOut ∧ out.length ≤ 17 * payload.length

/-- Flipping any single payload bit of a COMPRESSED container that DECOMPRESS accepts makes it fail with ChecksumMismatch,
InputUnderrun or OutputOverflow. -/
def Obligations.PayloadBitFlipsAreDetected : Prop :=
  ∀ (cs rs crcVal : Word32) (payload out : Buffer) (s : State) (i j : Nat),
    exec (.decompress (container cs rs tagCompressed crcVal payload)) s = .next (s.finish (.ok (.bytes out))) →
    i < payload.length → j < 8 →
    ∃ e : Err,
      exec (.decompress (container cs rs tagCompressed crcVal (payload.modify i (fun b => b ^^^ (1#8 <<< j))))) s =
          .next (s.raise e) ∧
        (e = .checksumMismatch ∨ e = .outputOverflow ∨ ∃ u, e = .inputUnderrun u)

/-! ### Headers and tokens in the stream of a command in progress -/

/-- HDR LZFu sets up the stream of a DECOMPRESS: a fresh dictionary, CRC_ACC = 0, IP = 16, an empty OUT, EOS_SEEN = 0. -/
def Obligations.CompressedHeaderSetsUpTheStream : Prop :=
  ∀ (s : State) (d : Dec) (cs rs crcVal : Word32),
    Table.get s.engines s.focus = some (.dec d) → d.phase = .header → d.cmd = .decompress → rs.toNat ≤ s.cfg.maxOut →
    exec (.hdrLZFu cs rs crcVal) s =
      .next (s.putEngine (.dec { d with
        hdr := some ⟨cs, rs, tagCompressed, crcVal⟩, dict := some Dict.new, crcAcc := 0, ip := some 16, out := [],
        eosSeen := false, phase := .ctrl }))

/-- The headers that end their command: HDR MELA takes a DECOMPRESS to DONE, which returns IN[16..N), HDR LZFu and HDR MELA return their
fields to a PARSE_HEADER, and HDR other is MalformedHeader(UnknownCompType) to both. That DONE is a step of its own (log entries 2 and
15) and that a PARSE_HEADER shows no phase but HEADER (log entry 25) are the model's choice. -/
def Obligations.HeadersThatEndTheCommand : Prop :=
  ∀ (s : State) (d : Dec) (cs rs crcVal : Word32),
    Table.get s.engines s.focus = some (.dec d) → d.phase = .header →
    (d.cmd = .decompress →
        exec (.hdrMELA cs rs crcVal) s =
          .next (s.putEngine (.dec { d with hdr := some ⟨cs, rs, tagUncompressed, crcVal⟩, phase := .done })) ∧
        ∀ (t : State) (tag : Nat) (rest : List HostMove), t.moves = .advance tag :: rest →
          Table.get t.engines tag = some (.dec { d with hdr := some ⟨cs, rs, tagUncompressed, crcVal⟩, phase := .done }) →
          step t = .next ((t.take rest tag).finish (.ok (.bytes (d.inp.drop 16))))) ∧
      (d.cmd = .parseHeader →
        exec (.hdrLZFu cs rs crcVal) s = .next (s.finish (.ok (.header ⟨cs, rs, tagCompressed, crcVal⟩)))) ∧
      (d.cmd = .parseHeader →
        exec (.hdrMELA cs rs crcVal) s = .next (s.finish (.ok (.header ⟨cs, rs, tagUncompressed, crcVal⟩)))) ∧
      (∀ ct, exec (.hdrOther cs rs ct crcVal) s = .next (s.raise (.malformedHeader .unknownCompType)))

/-- CTRL begins a run: it is folded into the CRC, IP moves past it, and slot 0 is next. Nothing else changes. -/
def Obligations.ControlByteBeginsARun : Prop :=
  ∀ (s : State) (d : Dec) (ip : Nat) (k : Byte),
    Table.get s.engines s.focus = some (.dec d) → d.phase = .ctrl → d.ip = some ip → ip < d.inp.length →
    exec (.ctrl k) s =
      .next (s.putEngine (.dec { d with
        ctrl := some k, bit := some 0, crcAcc := crcStep d.crcAcc k, ip := some (ip + 1), phase := .token }))

/-- LIT writes its byte to OUT and pushes it: it is folded into the CRC, IP moves past it, and the next slot, or after slot 7 a control
byte, is due. The ring changes at the write cursor alone, and nothing else changes. -/
def Obligations.LiteralWritesAndPushesItsByte : Prop :=
  ∀ (s : State) (d : Dec) (ip bit : Nat) (ctrl : Byte) (dict : Dict) (h : Header) (b : Byte),
    Table.get s.engines s.focus = some (.dec d) → d.atToken ip bit ctrl dict h → ctrl.getLsbD bit = false →
    ip < d.inp.length → d.out.length < h.rawSize.toNat → dict.ring.wf = true →
    exec (.lit b) s =
        .next (s.putEngine (.dec { d with
          out := d.out ++ [b], dict := some (dict.push b), crcAcc := crcStep d.crcAcc b, ip := some (ip + 1),
          bit := some (bit + 1), phase := if bit + 1 < 8 then .token else .ctrl })) ∧
      (dict.push b).read dict.wcur = b ∧ (∀ o, o ≠ dict.wcur → (dict.push b).read o = dict.read o)

/-- REF copies code + 2 bytes from the live ring, one at a time: byte i is read at offset + i after the bytes before it were pushed.
They are appended to OUT and pushed; both body bytes are folded into the CRC; the ring changes at the write cursor and the places after
it that the copy reaches alone; DPHASE is COPY; nothing else changes. An advance of a decompressor in COPY then ends the token: the next
slot, or after slot 7 a control byte, is due. That the copy is one step and its end another is the model's choice (log entries 2 and
15). -/
def Obligations.ReferenceCopiesFromTheLiveRing : Prop :=
  (∀ (s : State) (d : Dec) (ip bit : Nat) (ctrl : Byte) (dict : Dict) (h : Header) (off : Off12) (code : BitVec 4),
    Table.get s.engines s.focus = some (.dec d) → d.atToken ip bit ctrl dict h → ctrl.getLsbD bit = true → off ≠ dict.wcur →
    ip + 2 ≤ d.inp.length → d.out.length + (code.toNat + 2) ≤ h.rawSize.toNat → dict.ring.wf = true →
    ∃ bs : Buffer, bs.length = code.toNat + 2 ∧
      (∀ i, i < bs.length → bs.getD i 0 = (dict.pushAll (bs.take i)).read (off + BitVec.ofNat 12 i)) ∧
      exec (.ref off code) s =
          .next (s.putEngine (.dec { d with
            out := d.out ++ bs, dict := some (dict.pushAll bs), crcAcc := crc d.crcAcc [refHigh off, refLow off code],
            ip := some (ip + 2), refHi := some (refHigh off), refLo := some (refLow off code), copyOff := some off,
            copyLen := some (code.toNat + 2), copyI := some (code.toNat + 2), phase := .copy })) ∧
      (∀ o, (∀ i, i < bs.length → o ≠ dict.wcur + BitVec.ofNat 12 i) → (dict.pushAll bs).read o = dict.read o)) ∧
    (∀ (s : State) (tag : Nat) (rest : List HostMove) (d : Dec) (bit : Nat),
      s.moves = .advance tag :: rest → Table.get s.engines tag = some (.dec d) → d.phase = .copy → d.bit = some bit →
      step s = .next ((s.take rest tag).putEngine (.dec { d with
        bit := some (bit + 1), phase := if bit + 1 < 8 then .token else .ctrl })))

/-- A copy from one position behind the write cursor repeats that byte. -/
def Obligations.DistanceOneRepeatsTheByte : Prop :=
  ∀ (raw n : Nat) (off : Off12) (dict : Dict) (out : Buffer),
    dict.ring.wf = true → off + 1 = dict.wcur → out.length + n ≤ raw → n ≤ 17 →
    ∃ dict', copyLoop raw off n 0 dict out = some (dict', out ++ List.replicate n (dict.read off))

/-- The errors in the stream of a decompressor. LIT and REF that would write more than raw_size bytes are OutputOverflow. A payload that
ends where an element is due is InputUnderrun: of a ControlByte, a LiteralBody, or a ReferenceBody, which one byte left is too little for
(the spec's decisions D13 and D14; the step is the model's, log entries 2 and 15). Last, the same of whole commands: a payload of no
byte, of a control byte alone, and of a control byte and one byte of a reference body. -/
def Obligations.StreamErrorsEndTheCommand : Prop :=
  (∀ (s : State) (d : Dec) (ip bit : Nat) (ctrl : Byte) (dict : Dict) (h : Header),
      Table.get s.engines s.focus = some (.dec d) → d.atToken ip bit ctrl dict h → d.out.length ≤ h.rawSize.toNat →
      (∀ b, ctrl.getLsbD bit = false → ip < d.inp.length → d.out.length = h.rawSize.toNat →
          exec (.lit b) s = .next (s.raise .outputOverflow)) ∧
        (∀ off code, ctrl.getLsbD bit = true → off ≠ dict.wcur → ip + 2 ≤ d.inp.length →
          h.rawSize.toNat < d.out.length + (code.toNat + 2) → exec (.ref off code) s = .next (s.raise .outputOverflow))) ∧
    (∀ (s : State) (tag : Nat) (rest : List HostMove) (d : Dec) (ip : Nat),
      s.moves = .advance tag :: rest → Table.get s.engines tag = some (.dec d) → d.ip = some ip →
      (d.phase = .ctrl → d.inp.length ≤ ip → step s = .next ((s.take rest tag).raise (.inputUnderrun .controlByte))) ∧
        (∀ bit ctrl dict h, d.atToken ip bit ctrl dict h →
          (ctrl.getLsbD bit = false → d.inp.length ≤ ip →
              step s = .next ((s.take rest tag).raise (.inputUnderrun .literalBody))) ∧
            (ctrl.getLsbD bit = true → d.inp.length < ip + 2 →
              step s = .next ((s.take rest tag).raise (.inputUnderrun .referenceBody))))) ∧
    (∀ (cs rs crcVal : Word32) (k b : Byte) (s : State), rs.toNat ≤ s.cfg.maxOut →
      exec (.decompress (container cs rs tagCompressed crcVal [])) s = .next (s.raise (.inputUnderrun .controlByte)) ∧
        (k.getLsbD 0 = false →
          exec (.decompress (container cs rs tagCompressed crcVal [k])) s = .next (s.raise (.inputUnderrun .literalBody))) ∧
        (k.getLsbD 0 = true →
          exec (.decompress (container cs rs tagCompressed crcVal [k])) s = .next (s.raise (.inputUnderrun .referenceBody)) ∧
            exec (.decompress (container cs rs tagCompressed crcVal [k, b])) s =
              .next (s.raise (.inputUnderrun .referenceBody))))

/-- Raising an error: the host gets ERR under the tag of the command in focus, the registers and the dictionary unit of its engine are
gone, so that its phases are IDLE and its flags 0, and no other command, lexer instance or parameter changes. An error in a control token
makes its instance FAILED, with no transient register left, and the command in focus ends with it. The codes of the 19 errors, which are
the spec's decision D3: the pair (0, 0) is never an error. -/
def Obligations.RaisingAnErrorEndsTheCommand : Prop :=
  (∀ (s : State) (e : Err),
      (s.raise e).responses = s.responses ++ [(s.focus, .err e)] ∧ Table.get (s.raise e).engines s.focus = none ∧
        (s.raise e).dictOf s.focus = none ∧ (s.raise e).cphase s.focus = .idle ∧ (s.raise e).dphase s.focus = .idle ∧
        (s.raise e).finished s.focus = false ∧ (s.raise e).eosSeen s.focus = false ∧
        (∀ tag, tag ≠ s.focus → Table.get (s.raise e).engines tag = Table.get s.engines tag) ∧
        (s.raise e).lexers = s.lexers ∧ (s.raise e).nextLexer = s.nextLexer ∧ (s.raise e).cfg = s.cfg ∧
        (s.raise e).moves = s.moves ∧ (s.raise e).focus = s.focus) ∧
    (∀ (s : State) (tag : Nat) (rest : List HostMove) (id : Nat) (l : Lexer) (r : LexRun) (sub : LexSub) (n : Nat),
      s.moves = .advance tag :: rest → Table.get s.engines tag = none → (s.take rest tag).scans id l r → r.tstart = l.cur →
      l.cur ≤ l.buf.length → decode (.rtf (l.buf.drop l.cur)) = .error (.lexical sub n) →
      step s = .next (((s.take rest tag).putLexer id { l with cur := l.cur + n, state := .failed, run := none }).raise
        (.lexError sub))) ∧
    (∀ (r : Result) (e : Err), (Response.ok r).errCodes = (0, 0) ∧ (Response.err e).errCodes ≠ (0, 0)) ∧
    [Err.malformedHeader .tooShort, .malformedHeader .unknownCompType].map (fun e => (Response.err e).errCodes) =
      [(1, 1), (1, 2)] ∧
    [Err.invalidArgument .unknownMode, .invalidArgument .skipNonPositive, .invalidArgument .skipTooLong,
        .invalidArgument .skipAfterExhausted, .invalidArgument .lexerFailed].map (fun e => (Response.err e).errCodes) =
      [(2, 1), (2, 2), (2, 3), (2, 4), (2, 5)] ∧
    [Err.inputTooLarge .sizeField, .inputTooLarge .outputLimit, .inputTooLarge .inputLimit].map
        (fun e => (Response.err e).errCodes) = [(3, 1), (3, 2), (3, 3)] ∧
    [Err.inputUnderrun .controlByte, .inputUnderrun .literalBody, .inputUnderrun .referenceBody,
        .inputUnderrun .shortOutput].map (fun e => (Response.err e).errCodes) = [(4, 1), (4, 2), (4, 3), (4, 4)] ∧
    [Err.outputOverflow, .checksumMismatch].map (fun e => (Response.err e).errCodes) = [(5, 0), (6, 0)] ∧
    [Err.lexError .keywordTooLong, .lexError .parameterTooLong, .lexError .bufferUnderrun].map
        (fun e => (Response.err e).errCodes) = [(7, 1), (7, 2), (7, 3)]

/-- EOS ends the token loop: EOS_SEEN is set, both body bytes are folded into the CRC, whatever the code, and nothing is pushed or
written. -/
def Obligations.EndOfStreamEndsTheTokenLoop : Prop :=
  ∀ (s : State) (d : Dec) (ip bit : Nat) (ctrl : Byte) (dict : Dict) (h : Header) (code : BitVec 4),
    Table.get s.engines s.focus = some (.dec d) → d.atToken ip bit ctrl dict h → ctrl.getLsbD bit = true →
    ip + 2 ≤ d.inp.length →
    exec (.eos dict.wcur code) s =
      .next (s.putEngine (.dec { d with
        eosSeen := true, crcAcc := crc d.crcAcc [refHigh dict.wcur, refLow dict.wcur code], ip := some (ip + 2),
        refHi := some (refHigh dict.wcur), refLo := some (refLow dict.wcur code), copyOff := some dict.wcur,
        copyLen := some (code.toNat + 2), bit := some (bit + 1), phase := .trail }))

/-- After the EOS: the trailing bytes are folded into the CRC; a CRC that differs from the header's is ChecksumMismatch, and only then an
output of another length than raw_size InputUnderrun(ShortOutput); otherwise DONE follows, in which the command returns OUT, or of an
UNCOMPRESSED container IN[16..N). That each is one step of its own under an advance move (TRAIL, then CHECK, then DONE) is the model's choice (log entries 2 and 15). -/
def Obligations.ChecksAfterTheEndOfStream : Prop :=
  ∀ (s : State) (tag : Nat) (rest : List HostMove) (d : Dec) (h : Header),
    s.moves = .advance tag :: rest → Table.get s.engines tag = some (.dec d) → d.hdr = some h →
    (∀ ip, d.phase = .trail → d.ip = some ip → ip ≤ d.inp.length →
        step s = .next ((s.take rest tag).putEngine (.dec { d with
          crcAcc := crc d.crcAcc (d.inp.drop ip), ip := some d.inp.length, phase := .check }))) ∧
      (d.phase = .check → d.crcAcc ≠ h.crc → step s = .next ((s.take rest tag).raise .checksumMismatch)) ∧
      (d.phase = .check → d.crcAcc = h.crc → d.out.length ≠ h.rawSize.toNat →
        step s = .next ((s.take rest tag).raise (.inputUnderrun .shortOutput))) ∧
      (d.phase = .check → d.crcAcc = h.crc → d.out.length = h.rawSize.toNat →
        step s = .next ((s.take rest tag).putEngine (.dec { d with phase := .done }))) ∧
      (d.phase = .done →
        step s = .next ((s.take rest tag).finish (.ok (.bytes
          (if h.compType = tagUncompressed then d.inp.drop 16 else d.out)))))

/-! ### Lexer commands -/

/-- LEX_OPEN completes on every buffer: a new READY instance at the start of it, every other instance as before. -/
def Obligations.LexOpenMakesAnInstance : Prop :=
  ∀ (data : Buffer) (s : State), ∃ t : State, exec (.lexOpen data) s = .next t ∧
    Table.get t.lexers s.nextLexer = some { buf := data, cur := 0, state := .ready, run := none } ∧
    (∀ id, id ≠ s.nextLexer → Table.get t.lexers id = Table.get s.lexers id) ∧
    t.nextLexer = s.nextLexer + 1 ∧ t.responses = s.responses ++ [(s.focus, .ok (.lexer s.nextLexer))]

/-- LEX_NEXT always answers on an open instance; it moves LCUR forward within the buffer, or not, and LSTATE; the buffer stays, and no
transient register survives. In READY, one that returns a token other than END has advanced LCUR and stays READY. -/
def Obligations.LexNextAlwaysAnswers : Prop :=
  ∀ (id : Nat) (l : Lexer) (s : State), s.hasLexer id l → l.cur ≤ l.buf.length →
    ∃ (l' : Lexer) (r : Response), exec (.lexNext id) s = .next ((s.putLexer id l').finish r) ∧
      l' = { l with cur := l'.cur, state := l'.state } ∧ l.cur ≤ l'.cur ∧ l'.cur ≤ l.buf.length ∧
      (∀ tok, l.state = .ready → r = .ok (.token tok) → tok ≠ .endOfStream → l.cur < l'.cur ∧ l'.state = .ready)

/-- LEX_NEXT in READY before ordinary bytes returns the maximal run of them and stands at what ends it. -/
def Obligations.LexNextReturnsText : Prop :=
  ∀ (id : Nat) (l : Lexer) (s : State) (text rest : Buffer), s.hasLexer id l → l.state = .ready →
    l.buf.drop l.cur = text ++ rest → text ≠ [] → (∀ c ∈ text, isOrdinary c = true) → startsWithout isOrdinary rest = true →
    exec (.lexNext id) s =
      .next ((s.putLexer id { l with cur := l.cur + text.length }).finish (.ok (.token (.text text))))

/-- LEX_NEXT in READY before a brace: where ordinary bytes precede it, they are the TEXT token and the brace is not consumed; otherwise the
brace is consumed and GROUP is the token. -/
def Obligations.LexNextAtABrace : Prop :=
  ∀ (id : Nat) (l : Lexer) (s : State) (text rest : Buffer) (isOpen : Bool), s.hasLexer id l → l.state = .ready →
    (∀ c ∈ text, isOrdinary c = true) → l.buf.drop l.cur = text ++ (if isOpen then 0x7B#8 else 0x7D#8) :: rest →
    exec (.lexNext id) s =
      if text = [] then .next ((s.putLexer id { l with cur := l.cur + 1 }).finish (.ok (.token (.group isOpen))))
      else .next ((s.putLexer id { l with cur := l.cur + text.length }).finish (.ok (.token (.text text))))

/-- LEX_NEXT in READY at a control token returns it: the keyword with its case, the parameter if any digit was read (a bare sign is
dropped), and one delimiter space consumed; or the control symbol. The parameter is the decimal value of its digits, the leftmost the
most significant, with its sign, passed through PARAM_CONVERT: the identity on -(2^31 - 1) to 2^31 - 1 whatever the parameters, and the
identity everywhere by default (the spec's decision D25). -/
def Obligations.LexNextReturnsControlTokens : Prop :=
  (∀ (id : Nat) (l : Lexer) (s : State) (rest : Buffer), s.hasLexer id l → l.state = .ready →
    (∀ kw neg ds space, (Instr.rtfControlWord kw neg ds space).wf = true →
        follows (.rtfControlWord kw neg ds space) rest = true →
        l.buf.drop l.cur = (encode (.rtfControlWord kw neg ds space)).bytes ++ rest →
        exec (.lexNext id) s =
          .next ((s.putLexer id { l with cur := l.cur + (1 + kw.length + neg.toNat + ds.length + space.toNat) }).finish
            (.ok (.token (.controlWord kw (if ds = [] then none else
              some (paramConvert s.cfg (if neg then -(decimalValue ds : Int) else (decimalValue ds : Int))))))))) ∧
      (∀ c, isLetter c = false → l.buf.drop l.cur = 0x5C#8 :: c :: rest →
        exec (.lexNext id) s =
          .next ((s.putLexer id { l with cur := l.cur + 2 }).finish (.ok (.token (.controlSymbol c)))))) ∧
    (∀ (c : Config) (v : Int), -(2 ^ 31 - 1) ≤ v → v ≤ 2 ^ 31 - 1 → paramConvert c v = v) ∧
    (∀ v : Int, paramConvert Config.standard v = v) ∧
    (decimalValue [] = 0 ∧ ∀ (ds : Buffer) (b : Byte), decimalValue (ds ++ [b]) = decimalValue ds * 10 + (b.toNat - 0x30))

/-- LEX_NEXT in READY before a line break: where ordinary bytes precede it, they are the TEXT token and the line break is not consumed;
otherwise it does what it does one byte further, so that the line break is dropped. -/
def Obligations.LexNextAtALineBreak : Prop :=
  ∀ (id : Nat) (l : Lexer) (s : State) (c : Byte) (text rest : Buffer), s.hasLexer id l → l.state = .ready →
    (∀ b ∈ text, isOrdinary b = true) → c = 0x0D#8 ∨ c = 0x0A#8 → l.buf.drop l.cur = text ++ c :: rest →
    exec (.lexNext id) s =
      if text = [] then exec (.lexNext id) (s.putLexer id { l with cur := l.cur + 1 })
      else .next ((s.putLexer id { l with cur := l.cur + text.length }).finish (.ok (.token (.text text))))

/-- The lexer's errors: a buffer that ends after the backslash or in the keyword, a 33rd letter, an 11th digit. The instance is then
FAILED, and LCUR stands where the error was found. -/
def Obligations.LexicalErrorsFailTheInstance : Prop :=
  ∀ (id : Nat) (l : Lexer) (s : State) (kw ds rest : Buffer) (neg : Bool), s.hasLexer id l → l.state = .ready →
    (∀ c ∈ kw, isLetter c = true) → (∀ c ∈ ds, isDigit c = true) →
    (l.buf.drop l.cur = 0x5C#8 :: kw → kw.length ≤ 32 →
        exec (.lexNext id) s =
          .next ((s.putLexer id { l with cur := l.buf.length, state := .failed }).raise (.lexError .bufferUnderrun))) ∧
      (l.buf.drop l.cur = 0x5C#8 :: kw ++ rest → kw.length = 33 →
        exec (.lexNext id) s =
          .next ((s.putLexer id { l with cur := l.cur + 33, state := .failed }).raise (.lexError .keywordTooLong))) ∧
      (l.buf.drop l.cur = 0x5C#8 :: kw ++ (if neg then [0x2D#8] else []) ++ ds ++ rest → 1 ≤ kw.length → kw.length ≤ 32 →
        ds.length = 11 →
        exec (.lexNext id) s =
          .next ((s.putLexer id { l with cur := l.cur + (11 + kw.length + neg.toNat), state := .failed }).raise
            (.lexError .parameterTooLong)))

/-- LEX_NEXT in READY at the end of the buffer returns END and the instance is EXHAUSTED. EXHAUSTED and FAILED are terminal: every further
LEX_NEXT and LEX_SKIP answers the same and changes no instance. -/
def Obligations.TerminalLexersStay : Prop :=
  ∀ (id : Nat) (l : Lexer) (s : State) (n : Int), s.hasLexer id l →
    (l.state = .ready → l.cur = l.buf.length →
        exec (.lexNext id) s =
          .next ((s.putLexer id { l with state := .exhausted }).finish (.ok (.token .endOfStream)))) ∧
      (l.state = .failed →
        exec (.lexNext id) s = .next ((s.putLexer id l).raise (.invalidArgument .lexerFailed)) ∧
          exec (.lexSkip id n) s = .next ((s.putLexer id l).raise (.invalidArgument .lexerFailed))) ∧
      (l.state = .exhausted →
        exec (.lexNext id) s = .next ((s.putLexer id l).finish (.ok (.token .endOfStream))) ∧
          exec (.lexSkip id n) s = .next ((s.putLexer id l).raise (.invalidArgument .skipAfterExhausted))) ∧
      (∀ j, Table.get (s.putLexer id l).lexers j = Table.get s.lexers j)

/-- LEX_SKIP in READY returns exactly the next n raw bytes and advances LCUR by n; a length that is not positive, or beyond the rest of
the buffer, is an error that leaves the instance as it is. -/
def Obligations.LexSkipReturnsRawBytes : Prop :=
  ∀ (id : Nat) (l : Lexer) (s : State) (n : Int), s.hasLexer id l → l.state = .ready → l.cur ≤ l.buf.length →
    (∀ bs rest, l.buf.drop l.cur = bs ++ rest → bs ≠ [] → n = bs.length →
        exec (.lexSkip id n) s =
          .next ((s.putLexer id { l with cur := l.cur + bs.length }).finish (.ok (.bytes bs)))) ∧
      (n ≤ 0 → exec (.lexSkip id n) s = .next ((s.putLexer id l).raise (.invalidArgument .skipNonPositive))) ∧
      ((l.buf.length : Int) - l.cur < n →
        0 < n → exec (.lexSkip id n) s = .next ((s.putLexer id l).raise (.invalidArgument .skipTooLong)))

/-- LEX_CLOSE ends an instance in every LSTATE, and no other instance. -/
def Obligations.LexCloseEndsTheInstance : Prop :=
  ∀ (id : Nat) (l : Lexer) (s : State), s.hasLexer id l →
    exec (.lexClose id) s = .next ((s.dropLexer id).finish (.ok .nothing)) ∧
      Table.get (s.dropLexer id).lexers id = none ∧
      ∀ j, j ≠ id → Table.get (s.dropLexer id).lexers j = Table.get s.lexers j

/-- A lexer command that names a closed or never-opened instance is refused, and so is one while a LEX_NEXT is in progress on it. -/
def Obligations.LexerProtocolViolationsAreRefused : Prop :=
  ∀ (id : Nat) (n : Int) (s : State),
    (Table.get s.lexers id = none →
        exec (.lexNext id) s = .refused (.noSuchLexer id) ∧ exec (.lexSkip id n) s = .refused (.noSuchLexer id) ∧
          exec (.lexClose id) s = .refused (.noSuchLexer id)) ∧
      (∀ l, Table.get s.lexers id = some l → l.run ≠ none →
        exec (.lexNext id) s = .refused (.lexerBusy id) ∧ exec (.lexSkip id n) s = .refused (.lexerBusy id) ∧
          exec (.lexClose id) s = .refused (.lexerBusy id))

/-! ### Syntax elements and records of a LEX_NEXT in progress -/

/-- With no text pending, a syntax element is consumed: a brace, a control symbol or a control word yields its token's record and moves
LCUR past it, and a line break moves LCUR and TSTART past it. The record's place in the lexer is the model's choice (log entry 9). -/
def Obligations.SyntaxElementsAreConsumed : Prop :=
  ∀ (s : State) (id : Nat) (l : Lexer) (r : LexRun), s.scans id l r → r.tstart = l.cur →
    (l.cur + 1 ≤ l.buf.length →
        exec .rtfOpen s =
            .next (s.putLexer id { l with cur := l.cur + 1, run := some { r with result := some (recordGroup true) } }) ∧
          exec .rtfClose s =
            .next (s.putLexer id { l with cur := l.cur + 1, run := some { r with result := some (recordGroup false) } }) ∧
          ∀ c, exec (.rtfLineBreak c) s =
            .next (s.putLexer id { l with cur := l.cur + 1, run := some { r with tstart := l.cur + 1 } })) ∧
      (∀ c, l.cur + 2 ≤ l.buf.length →
        exec (.rtfControlSymbol c) s =
          .next (s.putLexer id { l with
            cur := l.cur + 2, run := some { r with lphase := .ctlFirst, result := some (recordControlSymbol c) } })) ∧
      (∀ kw neg ds space, l.cur + (1 + kw.length + neg.toNat + ds.length + space.toNat) ≤ l.buf.length →
        exec (.rtfControlWord kw neg ds space) s =
          .next (s.putLexer id { l with
            cur := l.cur + (1 + kw.length + neg.toNat + ds.length + space.toNat),
            run := some { r with
              kw := some kw, neg := some neg, pval := some (decimalValue ds), pdig := some ds.length, lphase := .space,
              result := some (recordControlWord kw (paramValue s.cfg neg ds)) } }))

/-- With text pending, a delimiter yields the TEXT record of it and is not consumed. That the record stands in the lexer until the next
step returns it is the model's choice (log entry 9). -/
def Obligations.DelimitersFlushPendingText : Prop :=
  ∀ (s : State) (id : Nat) (l : Lexer) (r : LexRun) (i : Instr), s.scans id l r → r.tstart < l.cur →
    (i = .rtfOpen ∨ i = .rtfClose ∨ (∃ c, i = .rtfLineBreak c) ∨ (∃ c, i = .rtfControlSymbol c) ∨
      ∃ kw neg ds space, i = .rtfControlWord kw neg ds space) →
    exec i s =
      .next (s.putLexer id { l with
        run := some { r with result := some (recordText ((l.buf.drop r.tstart).take (l.cur - r.tstart))) } })

/-- Ordinary bytes are marked as pending text: LCUR moves past them and TSTART stays. -/
def Obligations.TextBytesBecomePending : Prop :=
  ∀ (s : State) (id : Nat) (l : Lexer) (r : LexRun) (bs : Buffer), s.scans id l r → l.cur + bs.length ≤ l.buf.length →
    exec (.rtfText bs) s = .next (s.putLexer id { l with cur := l.cur + bs.length })

/-- A token record ends its LEX_NEXT: the host gets the token, no transient register survives, and the END record alone makes the
instance EXHAUSTED. That a record found is returned in a step of its own is the model's choice (log entry 9). -/
def Obligations.TokenRecordsEndTheCommand : Prop :=
  ∀ (s : State) (id : Nat) (l : Lexer) (r : LexRun) (rec : Record),
    findRun s.lexers s.focus = some (id, l) → l.run = some r → r.result = some rec →
    exec .tokenEnd s =
        .next ((s.putLexer id { l with state := .exhausted, run := none }).finish (.ok (.token .endOfStream))) ∧
      (∀ b, exec (.tokenGroup b) s = .next ((s.putLexer id { l with run := none }).finish (.ok (.token (.group b))))) ∧
      (∀ c, exec (.tokenControlSymbol c) s =
        .next ((s.putLexer id { l with run := none }).finish (.ok (.token (.controlSymbol c))))) ∧
      (∀ kw p, exec (.tokenControlWord kw p) s =
        .next ((s.putLexer id { l with run := none }).finish (.ok (.token (.controlWord kw p))))) ∧
      (∀ bs, exec (.tokenText bs) s = .next ((s.putLexer id { l with run := none }).finish (.ok (.token (.text bs)))))
end

