-- ==== Sys2Proof/Laws/State.lean ====
section
/-! SUPPORT. What each update of the state does to each field (all true by definition), so that no proof unfolds an update. -/

namespace Sys2Proof.Machine

variable (s : State)

@[simp] theorem State.take_cfg (rest : List HostMove) (tag : Nat) : (s.take rest tag).cfg = s.cfg := rfl
@[simp] theorem State.take_moves (rest : List HostMove) (tag : Nat) : (s.take rest tag).moves = rest := rfl
@[simp] theorem State.take_focus (rest : List HostMove) (tag : Nat) : (s.take rest tag).focus = tag := rfl
@[simp] theorem State.take_engines (rest : List HostMove) (tag : Nat) : (s.take rest tag).engines = s.engines := rfl
@[simp] theorem State.take_lexers (rest : List HostMove) (tag : Nat) : (s.take rest tag).lexers = s.lexers := rfl
@[simp] theorem State.take_nextLexer (rest : List HostMove) (tag : Nat) : (s.take rest tag).nextLexer = s.nextLexer := rfl
@[simp] theorem State.take_responses (rest : List HostMove) (tag : Nat) : (s.take rest tag).responses = s.responses := rfl

@[simp] theorem State.putEngine_cfg (e : Engine) : (s.putEngine e).cfg = s.cfg := rfl
@[simp] theorem State.putEngine_moves (e : Engine) : (s.putEngine e).moves = s.moves := rfl
@[simp] theorem State.putEngine_focus (e : Engine) : (s.putEngine e).focus = s.focus := rfl
@[simp] theorem State.putEngine_engines (e : Engine) : (s.putEngine e).engines = Table.put s.engines s.focus e := rfl
@[simp] theorem State.putEngine_lexers (e : Engine) : (s.putEngine e).lexers = s.lexers := rfl
@[simp] theorem State.putEngine_nextLexer (e : Engine) : (s.putEngine e).nextLexer = s.nextLexer := rfl
@[simp] theorem State.putEngine_responses (e : Engine) : (s.putEngine e).responses = s.responses := rfl

@[simp] theorem State.putLexer_cfg (id : Nat) (l : Lexer) : (s.putLexer id l).cfg = s.cfg := rfl
@[simp] theorem State.putLexer_moves (id : Nat) (l : Lexer) : (s.putLexer id l).moves = s.moves := rfl
@[simp] theorem State.putLexer_focus (id : Nat) (l : Lexer) : (s.putLexer id l).focus = s.focus := rfl
@[simp] theorem State.putLexer_engines (id : Nat) (l : Lexer) : (s.putLexer id l).engines = s.engines := rfl
@[simp] theorem State.putLexer_lexers (id : Nat) (l : Lexer) : (s.putLexer id l).lexers = Table.put s.lexers id l := rfl
@[simp] theorem State.putLexer_nextLexer (id : Nat) (l : Lexer) : (s.putLexer id l).nextLexer = s.nextLexer := rfl
@[simp] theorem State.putLexer_responses (id : Nat) (l : Lexer) : (s.putLexer id l).responses = s.responses := rfl

@[simp] theorem State.dropLexer_cfg (id : Nat) : (s.dropLexer id).cfg = s.cfg := rfl
@[simp] theorem State.dropLexer_moves (id : Nat) : (s.dropLexer id).moves = s.moves := rfl
@[simp] theorem State.dropLexer_focus (id : Nat) : (s.dropLexer id).focus = s.focus := rfl
@[simp] theorem State.dropLexer_engines (id : Nat) : (s.dropLexer id).engines = s.engines := rfl
@[simp] theorem State.dropLexer_lexers (id : Nat) : (s.dropLexer id).lexers = Table.del s.lexers id := rfl
@[simp] theorem State.dropLexer_nextLexer (id : Nat) : (s.dropLexer id).nextLexer = s.nextLexer := rfl
@[simp] theorem State.dropLexer_responses (id : Nat) : (s.dropLexer id).responses = s.responses := rfl

@[simp] theorem State.openLexer_cfg (l : Lexer) : (s.openLexer l).cfg = s.cfg := rfl
@[simp] theorem State.openLexer_moves (l : Lexer) : (s.openLexer l).moves = s.moves := rfl
@[simp] theorem State.openLexer_focus (l : Lexer) : (s.openLexer l).focus = s.focus := rfl
@[simp] theorem State.openLexer_engines (l : Lexer) : (s.openLexer l).engines = s.engines := rfl
@[simp] theorem State.openLexer_lexers (l : Lexer) : (s.openLexer l).lexers = Table.put s.lexers s.nextLexer l := rfl
@[simp] theorem State.openLexer_nextLexer (l : Lexer) : (s.openLexer l).nextLexer = s.nextLexer + 1 := rfl
@[simp] theorem State.openLexer_responses (l : Lexer) : (s.openLexer l).responses = s.responses := rfl

@[simp] theorem State.finish_cfg (r : Response) : (s.finish r).cfg = s.cfg := rfl
@[simp] theorem State.finish_moves (r : Response) : (s.finish r).moves = s.moves := rfl
@[simp] theorem State.finish_focus (r : Response) : (s.finish r).focus = s.focus := rfl
@[simp] theorem State.finish_engines (r : Response) : (s.finish r).engines = Table.del s.engines s.focus := rfl
@[simp] theorem State.finish_lexers (r : Response) : (s.finish r).lexers = s.lexers := rfl
@[simp] theorem State.finish_nextLexer (r : Response) : (s.finish r).nextLexer = s.nextLexer := rfl
@[simp] theorem State.finish_responses (r : Response) : (s.finish r).responses = s.responses ++ [(s.focus, r)] := rfl

@[simp] theorem State.raise_cfg (e : Err) : (s.raise e).cfg = s.cfg := rfl
@[simp] theorem State.raise_moves (e : Err) : (s.raise e).moves = s.moves := rfl
@[simp] theorem State.raise_focus (e : Err) : (s.raise e).focus = s.focus := rfl
@[simp] theorem State.raise_engines (e : Err) : (s.raise e).engines = Table.del s.engines s.focus := rfl
@[simp] theorem State.raise_lexers (e : Err) : (s.raise e).lexers = s.lexers := rfl
@[simp] theorem State.raise_nextLexer (e : Err) : (s.raise e).nextLexer = s.nextLexer := rfl
@[simp] theorem State.raise_responses (e : Err) : (s.raise e).responses = s.responses ++ [(s.focus, .err e)] := rfl

end Sys2Proof.Machine
end

