-- ==== Sys2Proof/Laws/Engine.lean ====
section
/-! SUPPORT. What each shared operation can do, said once: if it answers a next state or next registers, then in one of these ways.
Proofs cite these and do not unfold the operations. -/

namespace Sys2Proof.Machine

/-! ### The end of a command -/

theorem State.answer_ok (s : State) (r : Response) : s.answer (.ok r) = .next (s.finish r) := by
  cases r <;> rfl

theorem State.answer_next {s t : State} {r : Except Fault Response} :
    s.answer r = .next t ↔ ∃ v, r = .ok v ∧ t = s.finish v := by
  cases r with
  | error f => simp [State.answer]
  | ok v => rw [State.answer_ok]; simp [eq_comm]

/-! ### Acting on a lexer instance (R218, R229) -/

theorem State.onLexer_eq {s : State} {id : Nat} {l : Lexer} (f : Lexer → Host.Outcome State Fault Refusal)
    (hl : Table.get s.lexers id = some l) (hr : l.run = none) : s.onLexer id f = f l := by
  simp [State.onLexer, hl, hr]

theorem State.onLexer_next {s t : State} {id : Nat} {f : Lexer → Host.Outcome State Fault Refusal}
    (h : s.onLexer id f = .next t) : ∃ l, Table.get s.lexers id = some l ∧ l.run = none ∧ f l = .next t := by
  unfold State.onLexer at h
  split at h
  · cases h
  · rename_i l hl
    split at h
    · cases h
    · rename_i hr
      exact ⟨l, hl, by simpa using hr, h⟩

/-! ### Engine steps -/

theorem State.afterEngine_next {σ : Type} {s t : State} {wrap : σ → Engine} {k : Tick σ} (h : s.afterEngine wrap k = .next t) :
    (∃ e, k = .run e ∧ t = s.putEngine (wrap e)) ∨ (∃ e r, k = .done e r ∧ t = s.finish r) := by
  cases k with
  | run e => exact .inl ⟨e, rfl, by simpa [State.afterEngine, eq_comm] using h⟩
  | done e r => exact .inr ⟨e, r, rfl, by simpa [State.afterEngine, State.answer_ok, eq_comm] using h⟩
  | fault f => simp [State.afterEngine] at h
  | outOfPlace => simp [State.afterEngine] at h

theorem State.afterLexer_next {s t : State} {id : Nat} {k : Tick Lexer} (h : s.afterLexer id k = .next t) :
    (∃ l, k = .run l ∧ t = s.putLexer id l) ∨ (∃ l r, k = .done l r ∧ t = (s.putLexer id l).finish r) := by
  cases k with
  | run l => exact .inl ⟨l, rfl, by simpa [State.afterLexer, eq_comm] using h⟩
  | done l r => exact .inr ⟨l, r, rfl, by simpa [State.afterLexer, State.answer_ok, eq_comm] using h⟩
  | fault f => simp [State.afterLexer] at h
  | outOfPlace => simp [State.afterLexer] at h

theorem State.onDec_eq {s : State} {d : Dec} (f : Dec → Tick Dec) (h : Table.get s.engines s.focus = some (.dec d)) :
    s.onDec f = s.afterEngine .dec (f d) := by
  simp [State.onDec, h]

theorem State.onDec_next {s t : State} {f : Dec → Tick Dec} (h : s.onDec f = .next t) :
    ∃ d, Table.get s.engines s.focus = some (.dec d) ∧
      ((∃ d', f d = .run d' ∧ t = s.putEngine (.dec d')) ∨ (∃ d' r, f d = .done d' r ∧ t = s.finish r)) := by
  unfold State.onDec at h
  split at h
  · rename_i d hd
    exact ⟨d, hd, State.afterEngine_next h⟩
  all_goals cases h

theorem findRun_mem {ls : List (Nat × Lexer)} {tag id : Nat} {l : Lexer} (h : findRun ls tag = some (id, l)) :
    (id, l) ∈ ls ∧ ∃ r, l.run = some r ∧ r.tag = tag := by
  induction ls with
  | nil => cases h
  | cons p t ih =>
    obtain ⟨k, m⟩ := p
    simp only [findRun] at h
    split at h
    · rename_i r hr
      split at h
      · cases h; exact ⟨List.mem_cons_self .., r, hr, ‹_›⟩
      · exact ⟨List.mem_cons_of_mem _ (ih h).1, (ih h).2⟩
    · exact ⟨List.mem_cons_of_mem _ (ih h).1, (ih h).2⟩

theorem State.onScan_eq {s : State} {id : Nat} {l : Lexer} (f : Lexer → Tick Lexer)
    (h : findRun s.lexers s.focus = some (id, l)) : s.onScan f = s.afterLexer id (f l) := by
  simp [State.onScan, h]

theorem State.onScan_next {s t : State} {f : Lexer → Tick Lexer} (h : s.onScan f = .next t) :
    ∃ id l, findRun s.lexers s.focus = some (id, l) ∧
      ((∃ l', f l = .run l' ∧ t = s.putLexer id l') ∨ (∃ l' r, f l = .done l' r ∧ t = (s.putLexer id l').finish r)) := by
  unfold State.onScan at h
  split at h
  · rename_i id l hl
    exact ⟨id, l, hl, State.afterLexer_next h⟩
  · cases h

/-! ### The decompressor's registers -/

theorem Dec.tokenRegs_ok {d : Dec} {t : TokenRegs} (h : d.tokenRegs = .ok t) :
    d.ip = some t.ip ∧ d.ctrl = some t.ctrl ∧ d.bit = some t.bit ∧ d.dict = some t.dict ∧
      ∃ hd, d.hdr = some hd ∧ t.raw = hd.rawSize.toNat := by
  unfold Dec.tokenRegs at h
  split at h
  all_goals first | (cases h; done) | skip
  rename_i ip ctrl bit dict hdr h1 h2 h3 h4 h5
  cases h
  exact ⟨h1, h2, h3, h4, hdr, h5, rfl⟩

theorem Dec.tokenRegs_eq {d : Dec} {ip bit : Nat} {ctrl : Byte} {dict : Dict} {hd : Header} (h1 : d.ip = some ip)
    (h2 : d.ctrl = some ctrl) (h3 : d.bit = some bit) (h4 : d.dict = some dict) (h5 : d.hdr = some hd) :
    d.tokenRegs = .ok ⟨ip, ctrl, bit, dict, hd.rawSize.toNat⟩ := by
  simp [Dec.tokenRegs, h1, h2, h3, h4, h5]

theorem Dec.control_run {d d' : Dec} {k : Byte} (h : d.control k = .run d') :
    d.phase = .ctrl ∧ ∃ ip, d.ip = some ip ∧ ip + 1 ≤ d.inp.length ∧
      d' = { d.consume ip [k] with ctrl := some k, bit := some 0, phase := .token } := by
  unfold Dec.control at h
  split at h
  · cases h
  · rename_i hp
    split at h
    · cases h
    · rename_i ip hip
      split at h
      · cases h
      · cases h; exact ⟨by simpa using hp, ip, hip, by omega, rfl⟩

theorem Dec.literal_run {d d' : Dec} {b : Byte} (h : d.literal b = .run d') :
    d.phase = .token ∧ ∃ t, d.tokenRegs = .ok t ∧ ctrlBit t.ctrl t.bit = false ∧ t.ip + 1 ≤ d.inp.length ∧
      d.out.length ≠ t.raw ∧
      d' = { d.consume t.ip [b] with out := d.out ++ [b], dict := some (t.dict.push b) }.nextSlot t.bit := by
  unfold Dec.literal at h
  split at h
  · cases h
  · rename_i hp
    split at h
    · cases h
    · rename_i t ht
      split at h
      · cases h
      · rename_i hb
        split at h
        · cases h
        · dsimp only at h
          split at h
          · cases h
          · rename_i hn ho
            cases h
            exact ⟨by simpa using hp, t, ht, by simpa using hb, by omega, ho, rfl⟩

theorem Dec.reference_run {d d' : Dec} {off : Off12} {code : BitVec 4} (h : d.reference off code = .run d') :
    d.phase = .token ∧ ∃ t dict out, d.tokenRegs = .ok t ∧ ctrlBit t.ctrl t.bit = true ∧ off ≠ t.dict.wcur ∧
      t.ip + 2 ≤ d.inp.length ∧ copyLoop t.raw off (matchLength code) 0 t.dict d.out = some (dict, out) ∧
      d' = { d.readBody t.ip off code with phase := .copy, copyI := some (matchLength code), dict := some dict, out := out } := by
  unfold Dec.reference at h
  split at h
  · cases h
  · rename_i hp
    split at h
    · cases h
    · rename_i t ht
      split at h
      · cases h
      · rename_i hb
        split at h
        · cases h
        · dsimp only at h
          split at h
          · cases h
          · rename_i hn _ dict out hc
            cases h
            rw [not_or] at hb
            exact ⟨by simpa using hp, t, dict, out, ht, by simpa using hb.1, hb.2, by omega, hc, rfl⟩

theorem Dec.endOfStream_run {d d' : Dec} {off : Off12} {code : BitVec 4} (h : d.endOfStream off code = .run d') :
    d.phase = .token ∧ ∃ t, d.tokenRegs = .ok t ∧ ctrlBit t.ctrl t.bit = true ∧ off = t.dict.wcur ∧ t.ip + 2 ≤ d.inp.length ∧
      d' = { d.readBody t.ip off code with eosSeen := true, bit := some (t.bit + 1), phase := .trail } := by
  unfold Dec.endOfStream at h
  split at h
  · cases h
  · rename_i hp
    split at h
    · cases h
    · rename_i t ht
      split at h
      · cases h
      · rename_i hb
        split at h
        · cases h
        · rename_i hn
          cases h
          rw [not_or] at hb
          exact ⟨by simpa using hp, t, ht, by simpa using hb.1, by simpa using hb.2, by omega, rfl⟩

theorem Dec.endCopy_run {d d' : Dec} (h : d.endCopy = .run d') : ∃ bit, d.bit = some bit ∧ d' = d.nextSlot bit := by
  unfold Dec.endCopy at h
  split at h
  · cases h
  · rename_i bit hb; cases h; exact ⟨bit, hb, rfl⟩

theorem Dec.handOver_done {d d' : Dec} {r : Response} (h : d.handOver = .done d' r) :
    ∃ hd, d.hdr = some hd ∧ d' = d ∧ r = .ok (.bytes (d.result hd)) := by
  unfold Dec.handOver at h
  split at h
  · cases h
  · rename_i hd hh; cases h; exact ⟨hd, hh, rfl, rfl⟩

/-- An `UNCOMPRESSED` header leaves a `DECOMPRESS` in `DONE` with the four fields written, and nothing else changed (R173, R179). -/
theorem Dec.headerMELA_run {d d' : Dec} {cs rs c : Word32} (h : d.headerMELA cs rs c = .run d') :
    d.phase = .header ∧ d.cmd = .decompress ∧ d' = { d.setHeader cs rs tagUncompressed c with phase := .done } := by
  unfold Dec.headerMELA at h
  split at h
  · cases h
  · rename_i hp
    dsimp only at h
    split at h
    · cases h
    · rename_i hc; cases h; exact ⟨by simpa using hp, hc, rfl⟩

/-- What a copy writes and pushes: `n` bytes, each within the declared size, the same to `OUT` and to the dictionary (R167, R168). -/
theorem copyLoop_some {raw n i : Nat} {off : Off12} {dict dict' : Dict} {out out' : Buffer}
    (h : copyLoop raw off n i dict out = some (dict', out')) :
    ∃ bs : Buffer, bs.length = n ∧ out' = out ++ bs ∧ dict' = dict.pushAll bs ∧ (out.length ≤ raw → out'.length ≤ raw) := by
  induction n generalizing i dict out with
  | zero =>
    simp only [copyLoop, Option.some.injEq, Prod.mk.injEq] at h
    obtain ⟨rfl, rfl⟩ := h
    exact ⟨[], rfl, by simp, rfl, id⟩
  | succ n ih =>
    simp only [copyLoop] at h
    split at h
    · cases h
    · rename_i hne
      obtain ⟨bs, hlen, hout, hd, hraw⟩ := ih h
      refine ⟨dict.read (off + BitVec.ofNat 12 i) :: bs, by simp [hlen], by simp [hout], hd, fun hle => hraw ?_⟩
      simp only [List.length_append, List.length_singleton]; omega

/-! ### The lexer's registers -/

theorem Lexer.delimiter_run {l l' : Lexer} {n : Nat} {effect : LexRun → Lexer} (h : l.delimiter n effect = .run l') :
    ∃ r, l.run = some r ∧ r.result = none ∧ r.lphase = .scan ∧
      ((r.tstart < l.cur ∧ l' = l.flush r) ∨ (l.cur ≤ r.tstart ∧ l.cur + n ≤ l.buf.length ∧ l' = effect r)) := by
  unfold Lexer.delimiter at h
  split at h
  · cases h
  · rename_i r hr
    split at h
    · cases h
    · rename_i hp
      rw [not_or] at hp
      have h1 : r.result = none := by simpa using hp.1
      have h2 : r.lphase = .scan := by simpa using hp.2
      split at h
      · cases h; exact ⟨r, hr, h1, h2, .inl ⟨‹_›, rfl⟩⟩
      · split at h
        · cases h
        · cases h; exact ⟨r, hr, h1, h2, .inr ⟨by omega, by omega, rfl⟩⟩

theorem Lexer.delimiter_not_done {l l' : Lexer} {n : Nat} {effect : LexRun → Lexer} {r : Response} :
    l.delimiter n effect ≠ .done l' r := by
  intro h
  unfold Lexer.delimiter at h
  repeat' split at h
  all_goals cases h

theorem Lexer.text_run {l l' : Lexer} {bs : Buffer} (h : l.text bs = .run l') :
    ∃ r, l.run = some r ∧ r.result = none ∧ r.lphase = .scan ∧ l.cur + bs.length ≤ l.buf.length ∧
      l' = { l with cur := l.cur + bs.length } := by
  unfold Lexer.text at h
  split at h
  · cases h
  · rename_i r hr
    split at h
    · cases h
    · rename_i hp
      rw [not_or] at hp
      split at h
      · cases h
      · cases h
        exact ⟨r, hr, by simpa using hp.1, by simpa using hp.2, by omega, rfl⟩

theorem Lexer.deliver_done {l l' : Lexer} {t : Token} {a : Response} (h : l.deliver t = .done l' a) :
    ∃ r, l.run = some r ∧ r.result.isSome ∧ l' = l.endNext ∧ a = .ok (.token t) := by
  unfold Lexer.deliver at h
  split at h
  · cases h
  · rename_i r hr
    split at h
    · cases h
    · rename_i hs
      cases h
      refine ⟨r, hr, ?_, rfl, rfl⟩
      cases hr' : r.result <;> simp_all

/-- `LEX_SKIP` leaves everything but `LCUR`, and `LCUR` within the buffer (R192, R195). -/
theorem Lexer.skip_bounds (l : Lexer) (n : Int) (h : l.cur ≤ l.buf.length) :
    l.cur ≤ (l.skip n).1.cur ∧ (l.skip n).1.cur ≤ l.buf.length ∧ (l.skip n).1 = { l with cur := (l.skip n).1.cur } := by
  unfold Lexer.skip
  split
  · exact ⟨Nat.le_refl _, h, rfl⟩
  · exact ⟨Nat.le_refl _, h, rfl⟩
  · split
    · exact ⟨Nat.le_refl _, h, rfl⟩
    · split
      · exact ⟨Nat.le_refl _, h, rfl⟩
      · refine ⟨?_, ?_, rfl⟩
        · simp only; omega
        · simp only; omega

end Sys2Proof.Machine
end

