-- ==== Sys2Proof/Laws/Memory.lean ====
section
/-! SUPPORT. Ring memory: a read after a write, and the canonical form that every write keeps. -/

namespace Sys2Proof.Machine

/-- The canonical form of a list with a first cell: that cell is not the unlisted byte, lies below the rest, and the rest has the
form. -/
theorem Memory.wf_cons {k : Nat} {b : Byte} {t : Memory} :
    Memory.wf ((k, b) :: t) = true ↔ b ≠ Memory.unlisted ∧ (∀ c ∈ t, k < c.1) ∧ Memory.wf t = true := by
  induction t generalizing k b with
  | nil => simp [Memory.wf]
  | cons p t ih =>
    obtain ⟨k', b'⟩ := p
    constructor
    · intro h
      simp only [Memory.wf, Bool.and_eq_true, bne_iff_ne, ne_eq, decide_eq_true_eq] at h
      obtain ⟨⟨hb, hk⟩, ht⟩ := h
      refine ⟨hb, fun c hc => ?_, ht⟩
      rcases List.mem_cons.mp hc with rfl | hc
      · exact hk
      · exact Nat.lt_trans hk ((ih.mp ht).2.1 c hc)
    · rintro ⟨hb, hk, ht⟩
      simp only [Memory.wf, Bool.and_eq_true, bne_iff_ne, ne_eq, decide_eq_true_eq]
      exact ⟨⟨hb, hk _ (List.mem_cons_self ..)⟩, ht⟩

/-- An address below every listed one reads as unlisted. -/
theorem Memory.read_below {m : Memory} {a : Nat} (h : ∀ c ∈ m, a < c.1) : m.read a = Memory.unlisted := by
  induction m with
  | nil => rfl
  | cons p t ih =>
    obtain ⟨k, b⟩ := p
    have hk := h _ (List.mem_cons_self ..)
    simp only [Memory.read, Nat.ne_of_lt hk, if_false]
    exact ih fun c hc => h c (List.mem_cons_of_mem _ hc)

/-- Every cell after a write is an old one or the written one. -/
theorem Memory.mem_write {m : Memory} {a : Nat} {b : Byte} {c : Host.Cell} (h : c ∈ m.write a b) : c ∈ m ∨ c = (a, b) := by
  induction m with
  | nil =>
    simp only [Memory.write] at h
    split at h <;> simp_all
  | cons p t ih =>
    obtain ⟨k, b'⟩ := p
    simp only [Memory.write] at h
    split at h
    · split at h
      · exact .inl h
      · simp only [List.mem_cons] at h ⊢; tauto
    · split at h
      · split at h
        · exact .inl (List.mem_cons_of_mem _ h)
        · simp only [List.mem_cons] at h ⊢; tauto
      · simp only [List.mem_cons] at h ⊢
        rcases h with h | h
        · exact .inl (.inl h)
        · rcases ih h with h | h
          · exact .inl (.inr h)
          · exact .inr h

/-- A write keeps the canonical form. -/
theorem Memory.wf_write {m : Memory} (h : m.wf = true) (a : Nat) (b : Byte) : (m.write a b).wf = true := by
  induction m with
  | nil =>
    simp only [Memory.write]
    split
    · rfl
    · simpa [Memory.wf] using ‹¬b = Memory.unlisted›
  | cons p t ih =>
    obtain ⟨k, c⟩ := p
    obtain ⟨hc, hk, ht⟩ := Memory.wf_cons.mp h
    simp only [Memory.write]
    split
    · split
      · exact h
      · refine Memory.wf_cons.mpr ⟨‹_›, fun q hq => ?_, h⟩
        rcases List.mem_cons.mp hq with rfl | hq
        · assumption
        · exact Nat.lt_trans ‹a < k› (hk q hq)
    · split
      · split
        · exact ht
        · subst_vars; exact Memory.wf_cons.mpr ⟨‹_›, hk, ht⟩
      · refine Memory.wf_cons.mpr ⟨hc, fun q hq => ?_, ih ht⟩
        rcases Memory.mem_write hq with hq | rfl
        · exact hk q hq
        · simp only; omega

/-- A read of the written address gives the written byte. -/
theorem Memory.read_write_same {m : Memory} (h : m.wf = true) (a : Nat) (b : Byte) : (m.write a b).read a = b := by
  induction m with
  | nil =>
    simp only [Memory.write]
    split
    · simp [Memory.read, ‹b = Memory.unlisted›]
    · simp [Memory.read]
  | cons p t ih =>
    obtain ⟨k, c⟩ := p
    obtain ⟨hc, hk, ht⟩ := Memory.wf_cons.mp h
    simp only [Memory.write]
    split
    · split
      · rename_i hlt hb
        rw [hb]
        exact Memory.read_below fun q hq => by
          rcases List.mem_cons.mp hq with rfl | hq
          · exact hlt
          · exact Nat.lt_trans hlt (hk q hq)
      · simp [Memory.read]
    · split
      · rename_i hak
        split
        · rename_i hb
          rw [hb, hak]; exact Memory.read_below hk
        · simp [Memory.read]
      · rename_i h1 h2
        simp [Memory.read, h2, ih ht]

/-- A write leaves every other address as it was. -/
theorem Memory.read_write_other (m : Memory) {a a' : Nat} (b : Byte) (h : a' ≠ a) : (m.write a b).read a' = m.read a' := by
  induction m with
  | nil =>
    simp only [Memory.write]
    split <;> simp [Memory.read, h]
  | cons p t ih =>
    obtain ⟨k, c⟩ := p
    simp only [Memory.write]
    split
    · split
      · rfl
      · simp [Memory.read, h]
    · split
      · rename_i hak; subst hak
        split <;> simp [Memory.read, h]
      · simp [Memory.read, ih]

/-! ### The dictionary unit -/

/-- The fresh ring has the canonical form. -/
theorem Dict.new_wf : Dict.new.ring.wf = true := by decide +kernel

/-- The fresh ring lists only ring addresses. -/
theorem Dict.new_addresses : Dict.new.ring.all (fun c => decide (c.1 < dictSize)) = true := by decide +kernel

@[simp] theorem Dict.push_wcur (d : Dict) (b : Byte) : (d.push b).wcur = d.wcur + 1 := rfl
@[simp] theorem Dict.push_ring (d : Dict) (b : Byte) : (d.push b).ring = d.ring.write d.wcur.toNat b := rfl
@[simp] theorem Dict.push_fill (d : Dict) (b : Byte) :
    (d.push b).fill = if d.fill.toNat < dictSize then d.fill + 1 else d.fill := rfl

theorem Dict.push_wf {d : Dict} (h : d.ring.wf = true) (b : Byte) : (d.push b).ring.wf = true := Memory.wf_write h _ _

/-- A push is visible at the old write cursor (R56, R111). -/
theorem Dict.read_push_same {d : Dict} (h : d.ring.wf = true) (b : Byte) : (d.push b).read d.wcur = b :=
  Memory.read_write_same h _ _

/-- A push leaves every other position as it was (R113). -/
theorem Dict.read_push_other (d : Dict) (b : Byte) {o : Off12} (h : o ≠ d.wcur) : (d.push b).read o = d.read o :=
  Memory.read_write_other _ _ fun e => h (BitVec.eq_of_toNat_eq e)

@[simp] theorem Dict.pushAll_nil (d : Dict) : d.pushAll [] = d := rfl
@[simp] theorem Dict.pushAll_cons (d : Dict) (b : Byte) (bs : Buffer) : d.pushAll (b :: bs) = (d.push b).pushAll bs := rfl

theorem Dict.pushAll_append (d : Dict) (as bs : Buffer) : d.pushAll (as ++ bs) = (d.pushAll as).pushAll bs :=
  List.foldl_append

theorem Dict.pushAll_wf {d : Dict} (h : d.ring.wf = true) (bs : Buffer) : (d.pushAll bs).ring.wf = true := by
  induction bs generalizing d with
  | nil => exact h
  | cons b bs ih => exact ih (Dict.push_wf h b)

end Sys2Proof.Machine
end

