-- ==== Sys2Proof/Laws/Params.lean ====
section
/-! SUPPORT. `PARAM_CONVERT` as data: what its pieces can report, and that they reach every function the rules allow. -/

namespace Sys2Proof

@[simp] theorem convertBy_nil (v : Int) : convertBy [] v = v := rfl

theorem convertBy_cons (p : ParamPiece) (t : List ParamPiece) (v : Int) :
    convertBy (p :: t) v = if p.lo ≤ v ∧ v ≤ p.hi then p.scale * v + p.offset else convertBy t v := rfl

/-- The piece that reports `f lo` for `lo` alone. -/
def pointPiece (f : Int → Int) (lo : Int) : ParamPiece := { lo, hi := lo, scale := 0, offset := f lo }

/-- Pieces of one value each report a function on every value they hold. -/
theorem convertBy_points (f : Int → Int) (vs : List Int) (v : Int) (h : v ∈ vs) :
    convertBy (vs.map (pointPiece f)) v = f v := by
  induction vs with
  | nil => cases h
  | cons w ws ih =>
    simp only [List.map_cons, convertBy_cons, pointPiece]
    split
    · rename_i hw
      obtain rfl : w = v := by omega
      omega
    · rename_i hw
      exact ih ((List.mem_cons.1 h).resolve_left (fun e => hw (by omega)))

/-- Every `PARAM_CONVERT` that R6 allows can be set: some pieces report it on every value up to a magnitude `b`. A lexer reads at most 10
digits (R188), so `b = 9999999999` is every value it converts. -/
theorem exists_paramPieces (f : Int → Int) (c : Config) (b : Nat) (hf : ∀ v, -(2 ^ 31 - 1) ≤ v → v ≤ 2 ^ 31 - 1 → f v = v) :
    ∃ ps : List ParamPiece, ∀ v : Int, -(b : Int) ≤ v → v ≤ b → paramConvert { c with paramPieces := ps } v = f v := by
  refine ⟨((List.range (2 * b + 1)).map (fun n : Nat => (n : Int) - b)).map (pointPiece f), fun v hl hh => ?_⟩
  unfold paramConvert
  split
  · rename_i h; exact (hf v h.1 h.2).symm
  · refine convertBy_points f _ v ?_
    simp only [List.mem_map, List.mem_range]
    exact ⟨(v + b).toNat, by omega, by omega⟩

end Sys2Proof
end

