-- ==== Sys2Proof/Laws/PerInstr.lean ====
section
/-! SUPPORT. A law of every instruction's encoding, instruction by instruction: how many bytes of a byte stream it takes (30_encoding.md
rules R70, R75 to R77, R81, R87). Commands and token records are no bytes of a stream. -/

namespace Sys2Proof

/-- The number of stream bytes of an instruction. -/
def Instr.byteLength : Instr → Nat
  | .hdrLZFu _ _ _ => hdrLen
  | .hdrMELA _ _ _ => hdrLen
  | .hdrOther _ _ _ _ => hdrLen
  | .ctrl _ => 1
  | .lit _ => 1
  | .ref _ _ => 2
  | .eos _ _ => 2
  | .crc32 _ _ => 0
  | .compress _ _ => 0
  | .decompress _ => 0
  | .parseHeader _ => 0
  | .lexOpen _ => 0
  | .lexNext _ => 0
  | .lexSkip _ _ => 0
  | .lexClose _ => 0
  | .tokenEnd => 0
  | .tokenGroup _ => 0
  | .tokenControlSymbol _ => 0
  | .tokenControlWord _ _ => 0
  | .tokenText _ => 0
  | .rtfOpen => 1
  | .rtfClose => 1
  | .rtfControlSymbol _ => 2
  | .rtfControlWord kw neg ds space => 1 + kw.length + neg.toNat + ds.length + space.toNat
  | .rtfLineBreak _ => 1
  | .rtfText bs => bs.length

/-- An instruction's encoding has its number of stream bytes. -/
def Laws.ByteLength.Statement (i : Instr) : Prop := (encode i).bytes.length = i.byteLength

namespace Laws.ByteLength

theorem hdrLZFu (compSize rawSize crc : Word32) : Statement (.hdrLZFu compSize rawSize crc) := rfl
theorem hdrMELA (compSize rawSize crc : Word32) : Statement (.hdrMELA compSize rawSize crc) := rfl
theorem hdrOther (compSize rawSize compType crc : Word32) : Statement (.hdrOther compSize rawSize compType crc) := rfl
theorem ctrl (k : Byte) : Statement (.ctrl k) := rfl
theorem lit (b : Byte) : Statement (.lit b) := rfl
theorem ref (off : Off12) (code : BitVec 4) : Statement (.ref off code) := rfl
theorem eos (off : Off12) (code : BitVec 4) : Statement (.eos off code) := rfl
theorem crc32 (crcIn : Word32) (data : Buffer) : Statement (.crc32 crcIn data) := rfl
theorem compress (mode : Word32) (data : Buffer) : Statement (.compress mode data) := rfl
theorem decompress (data : Buffer) : Statement (.decompress data) := rfl
theorem parseHeader (data : Buffer) : Statement (.parseHeader data) := rfl
theorem lexOpen (data : Buffer) : Statement (.lexOpen data) := rfl
theorem lexNext (lexer : Nat) : Statement (.lexNext lexer) := rfl
theorem lexSkip (lexer : Nat) (n : Int) : Statement (.lexSkip lexer n) := rfl
theorem lexClose (lexer : Nat) : Statement (.lexClose lexer) := rfl
theorem tokenEnd : Statement .tokenEnd := rfl
theorem tokenGroup (isOpen : Bool) : Statement (.tokenGroup isOpen) := rfl
theorem tokenControlSymbol (symbol : Byte) : Statement (.tokenControlSymbol symbol) := rfl
theorem tokenControlWord (keyword : Buffer) (param : Option Int) : Statement (.tokenControlWord keyword param) := rfl
theorem tokenText (bytes : Buffer) : Statement (.tokenText bytes) := rfl
theorem rtfOpen : Statement .rtfOpen := rfl
theorem rtfClose : Statement .rtfClose := rfl
theorem rtfControlSymbol (symbol : Byte) : Statement (.rtfControlSymbol symbol) := rfl
theorem rtfControlWord (keyword : Buffer) (neg : Bool) (digits : Buffer) (space : Bool) :
    Statement (.rtfControlWord keyword neg digits space) := by
  cases neg <;> cases space <;> simp [Statement, encode, Code.bytes, Instr.byteLength] <;> omega
theorem rtfLineBreak (c : Byte) : Statement (.rtfLineBreak c) := rfl
theorem rtfText (bytes : Buffer) : Statement (.rtfText bytes) := rfl

end Laws.ByteLength

end Sys2Proof
end

