-- ==== Sys2Proof/Laws/Table.lean ====
section
/-! SUPPORT. The tables of engines and lexers: reading after a change, and the rising order that every change keeps. -/

namespace Sys2Proof.Machine

variable {α : Type}

theorem Table.get_put_same (t : List (Nat × α)) (n : Nat) (v : α) : Table.get (Table.put t n v) n = some v := by
  induction t with
  | nil => simp [Table.put, Table.get]
  | cons p t ih =>
    obtain ⟨k, w⟩ := p
    simp only [Table.put]
    split
    · simp [Table.get]
    · split
      · simp [Table.get]
      · simp_all [Table.get]

theorem Table.get_put_other (t : List (Nat × α)) {n m : Nat} (v : α) (h : m ≠ n) :
    Table.get (Table.put t n v) m = Table.get t m := by
  induction t with
  | nil => simp [Table.put, Table.get, h]
  | cons p t ih =>
    obtain ⟨k, w⟩ := p
    simp only [Table.put]
    split
    · simp [Table.get, h]
    · split
      · rename_i hk; subst hk; simp [Table.get, h]
      · simp [Table.get, ih]

theorem Table.get_del_same (t : List (Nat × α)) (n : Nat) : Table.get (Table.del t n) n = none := by
  induction t with
  | nil => rfl
  | cons p t ih =>
    obtain ⟨k, w⟩ := p
    by_cases h : k = n
    · simpa [Table.del, h] using ih
    · have h' : n ≠ k := fun e => h e.symm
      simpa [Table.del, h, Table.get, h'] using ih

theorem Table.get_del_other (t : List (Nat × α)) {n m : Nat} (h : m ≠ n) : Table.get (Table.del t n) m = Table.get t m := by
  induction t with
  | nil => rfl
  | cons p t ih =>
    obtain ⟨k, w⟩ := p
    by_cases hk : k = n
    · subst hk; simpa [Table.del, Table.get, h] using ih
    · simp only [Table.del] at ih
      simp [Table.del, hk, Table.get, ih]

/-- Setting an entry and removing it is removing it. -/
theorem Table.del_put (t : List (Nat × α)) (n : Nat) (v : α) : Table.del (Table.put t n v) n = Table.del t n := by
  induction t with
  | nil => simp [Table.put, Table.del]
  | cons p t ih =>
    obtain ⟨k, w⟩ := p
    simp only [Table.put]
    split
    · simp [Table.del]
    · split
      · rename_i hk; subst hk; simp [Table.del]
      · simp only [Table.del] at ih
        by_cases hk : k = n <;> simp [Table.del, hk, ih]

/-- Setting an entry twice leaves the second. -/
theorem Table.put_put (t : List (Nat × α)) (n : Nat) (v w : α) : Table.put (Table.put t n v) n w = Table.put t n w := by
  induction t with
  | nil => simp [Table.put]
  | cons p t ih =>
    obtain ⟨k, x⟩ := p
    simp only [Table.put]
    split
    · simp [Table.put]
    · split
      · simp [Table.put]
      · rename_i h1 h2; simp [Table.put, h1, h2, ih]

/-- Every entry after a set is an old one or the new one. -/
theorem Table.mem_put {t : List (Nat × α)} {n : Nat} {v : α} {p : Nat × α} (h : p ∈ Table.put t n v) : p ∈ t ∨ p = (n, v) := by
  induction t with
  | nil => simpa [Table.put] using h
  | cons q t ih =>
    obtain ⟨k, w⟩ := q
    simp only [Table.put] at h
    split at h
    · simp only [List.mem_cons] at h ⊢; tauto
    · split at h
      · simp only [List.mem_cons] at h ⊢; tauto
      · simp only [List.mem_cons] at h ⊢
        rcases h with h | h
        · exact .inl (.inl h)
        · rcases ih h with h | h
          · exact .inl (.inr h)
          · exact .inr h

theorem Table.mem_del {t : List (Nat × α)} {n : Nat} {p : Nat × α} (h : p ∈ Table.del t n) : p ∈ t :=
  (List.mem_filter.mp h).1

/-- An entry that is read is in the table. -/
theorem Table.mem_of_get {t : List (Nat × α)} {n : Nat} {v : α} (h : Table.get t n = some v) : (n, v) ∈ t := by
  induction t with
  | nil => simp [Table.get] at h
  | cons p t ih =>
    obtain ⟨k, w⟩ := p
    simp only [Table.get] at h
    split at h
    · rename_i hk; subst hk; simp at h; simp [h]
    · exact List.mem_cons_of_mem _ (ih h)

/-- The numbers of a table rise. -/
abbrev Table.Rising (t : List (Nat × α)) : Prop := List.Pairwise (fun p q => p.1 < q.1) t

theorem Table.rising_put {t : List (Nat × α)} (h : Table.Rising t) (n : Nat) (v : α) : Table.Rising (Table.put t n v) := by
  induction t with
  | nil => simp [Table.put]
  | cons p t ih =>
    obtain ⟨k, w⟩ := p
    obtain ⟨hp, ht⟩ := List.pairwise_cons.mp h
    simp only [Table.put]
    split
    · rename_i hn
      exact List.pairwise_cons.mpr ⟨fun q hq => by
        rcases List.mem_cons.mp hq with rfl | hq
        · exact hn
        · exact Nat.lt_trans hn (hp q hq), h⟩
    · split
      · rename_i _ hk; subst hk; exact List.pairwise_cons.mpr ⟨hp, ht⟩
      · refine List.pairwise_cons.mpr ⟨fun q hq => ?_, ih ht⟩
        rcases Table.mem_put hq with hq | rfl
        · exact hp q hq
        · simp only; omega

theorem Table.rising_del {t : List (Nat × α)} (h : Table.Rising t) (n : Nat) : Table.Rising (Table.del t n) :=
  List.Pairwise.filter _ h

end Sys2Proof.Machine
end

