-- ==== Sys2Proof/Tests/Slice0.lean ====
section
/-! SUPPORT. The model's own tests: ill-formed terms that the check refuses, every constructor decoded from a word written out from
30_encoding.md, vectors of 95_test_vectors.md, and for every statement of the obligations with hypotheses a state and operands that meet
them. -/

namespace Sys2Proof.Tests

open Sys2Proof.Machine

/-! ### Helpers -/

/-- The responses after an outcome, none where the machine stopped. -/
def answers (o : Host.Outcome State Fault Refusal) : List Response :=
  match o with
  | .next t => t.responses.map Prod.snd
  | .fault _ => []
  | .refused _ => []

/-- What a state's component is after an outcome, `none` where the machine stopped. -/
def after {α : Type} (o : Host.Outcome State Fault Refusal) (f : State → α) : Option α :=
  match o with
  | .next t => some (f t)
  | .fault _ => none
  | .refused _ => none

/-- A state with one engine in progress under tag 1, which is to take its next step. -/
def engineState (e : Engine) : State := { State.reset with focus := 1, engines := [(1, e)], moves := [.advance 1] }

/-- A state with one lexer instance, number 1. -/
def lexState (l : Lexer) : State := { State.reset with focus := 1, lexers := [(1, l)], nextLexer := 2, moves := [.advance 1] }

/-- A lexer over a buffer with no `LEX_NEXT` in progress. -/
def lexAt (buf : Buffer) (cur : Nat) (state : LState) : Lexer := { buf, cur, state, run := none }

/-- A lexer over a buffer with a `LEX_NEXT` in progress under tag 1 since `tstart`. -/
def scanAt (buf : Buffer) (tstart cur : Nat) : Lexer :=
  { buf, cur, state := .ready, run := some (LexRun.start 1 tstart) }

/-- A lexer with a `LEX_NEXT` in progress that has found a token's record. -/
def foundAt (r : Record) : Lexer :=
  { buf := [0x7B#8], cur := 1, state := .ready, run := some { LexRun.start 1 0 with result := some r } }

/-- A decompressor of a payload at index 16 with `raw_size` `raw`, in a phase and at a slot of a control byte. -/
def decAt (payload : Buffer) (raw : Word32) (phase : DPhase) (ctrl : Byte) (ip bit : Nat) : Dec :=
  { Dec.start .decompress (List.replicate 16 0x00#8 ++ payload) with
    hdr := some ⟨0, raw, tagCompressed, 0⟩, ip := some ip, ctrl := some ctrl, bit := some bit, dict := some Dict.new, phase := phase }

/-- A compressor in `EMIT` at a slot of a run that began at index 16. -/
def compAt (inp : Buffer) (ip slot best : Nat) (off : Off12) : Comp :=
  { Comp.start tagCompressed inp with
    ip := ip, out := List.replicate 17 0x00#8, ctrl := some 0x00#8, ctrlPos := some 16, slot := some slot, best := some best,
    bestOff := some off, dict := some Dict.new, phase := .emit }

/-- A compressor in `FINALIZE` whose output has a length. -/
def finalAt (len : Nat) : Comp :=
  { Comp.start tagCompressed [] with out := List.replicate len 0x00#8, finished := true, phase := .finalize }

/-- The payload of the container of the empty input, and the container (95_test_vectors.md section 2.3). -/
def emptyPayload : Buffer := [0x01#8, 0x0C#8, 0xF0#8]
def emptyContainer : Buffer := container 15 0 tagCompressed 0x10CAD727#32 emptyPayload

/-- The command of a code, with every operand given. -/
def command (code : Byte) : HostCommand := { code, arg := some 7, lexer := 1, count := 2, data := [0x61#8] }

/-! ### WellFormed: an ill-formed term for each check -/

theorem test_wf_refuses_known_tags :
    (Instr.hdrOther 0 0 tagCompressed 0).wf = false ∧ (Instr.hdrOther 0 0 tagUncompressed 0).wf = false := by decide

theorem test_wf_refuses_letter_symbols :
    (Instr.tokenControlSymbol 0x61#8).wf = false ∧ (Instr.rtfControlSymbol 0x5A#8).wf = false := by decide

theorem test_wf_refuses_keywords :
    (Instr.tokenControlWord [] none).wf = false ∧ (Instr.tokenControlWord [0x31#8] none).wf = false ∧
      (Instr.tokenControlWord (List.replicate 33 0x61#8) none).wf = false ∧
      (Instr.rtfControlWord [] false [] true).wf = false := by decide

theorem test_wf_refuses_digits :
    (Instr.rtfControlWord [0x61#8] false (List.replicate 11 0x30#8) true).wf = false ∧
      (Instr.rtfControlWord [0x61#8] false [0x61#8] true).wf = false := by decide

theorem test_wf_refuses_text :
    (Instr.tokenText []).wf = false ∧ (Instr.tokenText [0x0D#8]).wf = false ∧ (Instr.rtfText []).wf = false ∧
      (Instr.rtfText [0x61#8, 0x7B#8]).wf = false := by decide

theorem test_wf_refuses_line_breaks : (Instr.rtfLineBreak 0x20#8).wf = false := by decide

/-! ### Decoding: every constructor from a word written out from the tables of 30_encoding.md -/

/-- The header of the MS-OXRTFEX container (95_test_vectors.md section 1.2). -/
theorem test_decode_hdrLZFu :
    decode (.header [0x2D#8, 0, 0, 0, 0x2B#8, 0, 0, 0, 0x4C#8, 0x5A#8, 0x46#8, 0x75#8, 0xF1#8, 0xC5#8, 0xC7#8, 0xA7#8]) =
      .ok (.hdrLZFu 45 43 0xA7C7C5F1#32, []) := by decide

theorem test_decode_hdrMELA :
    decode (.header [0, 0, 0, 0, 5, 0, 0, 0, 0x4D#8, 0x45#8, 0x4C#8, 0x41#8, 7, 0, 0, 0, 0x61#8]) =
      .ok (.hdrMELA 0 5 7, [0x61#8]) := by decide

theorem test_decode_hdrOther :
    decode (.header [0x0C#8, 0, 0, 0, 0, 0, 0, 0, 0x78#8, 0x56#8, 0x34#8, 0x12#8, 0, 0, 0, 0]) =
      .ok (.hdrOther 12 0 0x12345678#32 0, []) := by decide

theorem test_decode_ctrl : decode (.control [0x42#8, 0x32#8]) = .ok (.ctrl 0x42#8, [0x32#8]) := by decide

theorem test_decode_lit : decode (.body false 207 [0x61#8, 0x0D#8]) = .ok (.lit 0x61#8, [0x0D#8]) := by decide

/-- `REF off=0x0AF len=5` at a write cursor of 230, and the same two bytes where they are the EOS (R79). -/
theorem test_decode_ref : decode (.body true 230 [0x0A#8, 0xF3#8]) = .ok (.ref 0x0AF#12 3#4, []) := by decide

theorem test_decode_eos :
    decode (.body true 207 [0x0C#8, 0xF5#8]) = .ok (.eos 0x0CF#12 5#4, []) ∧
      decode (.body true 0x0AF#12 [0x0A#8, 0xF3#8]) = .ok (.eos 0x0AF#12 3#4, []) := by decide

theorem test_decode_commands :
    decode (.command (command 0x01#8)) = .ok (.crc32 7 [0x61#8], []) ∧
      decode (.command (command 0x02#8)) = .ok (.compress 7 [0x61#8], []) ∧
      decode (.command (command 0x03#8)) = .ok (.decompress [0x61#8], []) ∧
      decode (.command (command 0x04#8)) = .ok (.parseHeader [0x61#8], []) ∧
      decode (.command (command 0x05#8)) = .ok (.lexOpen [0x61#8], []) ∧
      decode (.command (command 0x06#8)) = .ok (.lexNext 1, []) ∧
      decode (.command (command 0x07#8)) = .ok (.lexSkip 1 2, []) ∧
      decode (.command (command 0x08#8)) = .ok (.lexClose 1, []) := by decide

/-- An omitted mode is `COMPRESSED` (R130); an omitted `crc_in` and an operand of 2^32 are refused (R218), and so are codes 0 and 9. -/
theorem test_decode_operands :
    decode (.command { command 0x02#8 with arg := none }) = .ok (.compress tagCompressed [0x61#8], []) ∧
      decode (.command { command 0x01#8 with arg := none }) = .error .missingOperand ∧
      decode (.command { command 0x01#8 with arg := some 0x100000000 }) = .error .operandNotU32 ∧
      decode (.command (command 0x00#8)) = .error (.notACommand 0) ∧
      decode (.command (command 0x09#8)) = .error (.notACommand 9) := by decide

theorem test_decode_records :
    decode (.record { Record.blank 0 with isOpen := true }) = .ok (.tokenEnd, []) ∧
      decode (.record { Record.blank 1 with isOpen := true }) = .ok (.tokenGroup true, []) ∧
      decode (.record { Record.blank 2 with symbol := 0x27#8 }) = .ok (.tokenControlSymbol 0x27#8, []) ∧
      decode (.record { Record.blank 3 with keyword := [0x62#8], param := some 3 }) = .ok (.tokenControlWord [0x62#8] (some 3), []) ∧
      decode (.record { Record.blank 4 with bytes := [0x68#8] }) = .ok (.tokenText [0x68#8], []) ∧
      decode (.record (Record.blank 5)) = .error (.unknownKind 5) := by decide

theorem test_decode_rtf_delimiters :
    decode (.rtf [0x7B#8, 0x61#8]) = .ok (.rtfOpen, [0x61#8]) ∧ decode (.rtf [0x7D#8]) = .ok (.rtfClose, []) ∧
      decode (.rtf [0x0D#8, 0x0A#8]) = .ok (.rtfLineBreak 0x0D#8, [0x0A#8]) ∧
      decode (.rtf [0x0A#8]) = .ok (.rtfLineBreak 0x0A#8, []) := by decide

/-- `\'e9x` and `\` CR (R185). -/
theorem test_decode_rtfControlSymbol :
    decode (.rtf [0x5C#8, 0x27#8, 0x65#8, 0x39#8]) = .ok (.rtfControlSymbol 0x27#8, [0x65#8, 0x39#8]) ∧
      decode (.rtf [0x5C#8, 0x0D#8]) = .ok (.rtfControlSymbol 0x0D#8, []) := by decide

/-- `\fs-24 x`, and `\li- x`, whose bare sign and space are consumed (R187, R190). -/
theorem test_decode_rtfControlWord :
    decode (.rtf [0x5C#8, 0x66#8, 0x73#8, 0x2D#8, 0x32#8, 0x34#8, 0x20#8, 0x78#8]) =
        .ok (.rtfControlWord [0x66#8, 0x73#8] true [0x32#8, 0x34#8] true, [0x78#8]) ∧
      decode (.rtf [0x5C#8, 0x6C#8, 0x69#8, 0x2D#8, 0x20#8, 0x78#8]) =
        .ok (.rtfControlWord [0x6C#8, 0x69#8] true [] true, [0x78#8]) := by decide

/-- `80 00 7A 7D`, and `par`, which are text outside a control token (R86, R194). -/
theorem test_decode_rtfText :
    decode (.rtf [0x80#8, 0x00#8, 0x7A#8, 0x7D#8]) = .ok (.rtfText [0x80#8, 0x00#8, 0x7A#8], [0x7D#8]) ∧
      decode (.rtf [0x70#8, 0x61#8, 0x72#8]) = .ok (.rtfText [0x70#8, 0x61#8, 0x72#8], []) := by decide

/-- 33 letters, 11 digits, and a buffer that ends in the keyword or after the backslash (R185, R186, R188). -/
theorem test_decode_lexical_errors :
    decode (.rtf (0x5C#8 :: List.replicate 40 0x61#8)) = .error (.lexical .keywordTooLong 33) ∧
      decode (.rtf (0x5C#8 :: 0x61#8 :: List.replicate 11 0x30#8)) = .error (.lexical .parameterTooLong 12) ∧
      decode (.rtf (0x5C#8 :: List.replicate 32 0x61#8)) = .error (.lexical .bufferUnderrun 33) ∧
      decode (.rtf [0x5C#8]) = .error (.lexical .bufferUnderrun 1) := by decide

/-! ### The ROMs -/

/-- The table entries of R101 are what its generation loop gives. -/
theorem test_crc_table_is_the_loop : crcTable = (List.range 256).map crcEntry := by decide +kernel

/-- The row that R101 gives for 0x08, and the last entry. -/
theorem test_crc_table_entries :
    crcTable.getD 0x08 0 = 0x0EDB8832#32 ∧ crcTable.getD 0x0F 0 = 0x90BF1D91#32 ∧ crcTable.getD 0xFF 0 = 0x2D02EF8D#32 := by
  decide +kernel

/-- The seed's length and the bytes at 0, 7, 0x5B, 0x90, 0xAF and 206 (R84). -/
theorem test_seed_bytes :
    seedRom.length = 207 ∧
      [0, 7, 0x5B, 0x90, 0xAF, 206].map (seedRom.getD · 0) = [0x7B#8, 0x61#8, 0x6F#8, 0x6C#8, 0x5C#8, 0x78#8] := by decide +kernel

/-! ### The dictionary unit (95_test_vectors.md section 2.2) -/

theorem test_dict_push :
    let d := Dict.new.push 0x41#8
    (d.read 207, d.read 208, d.wcur, d.fill) = (0x41#8, 0x00#8, 208#12, 208#13) := by decide +kernel

/-- At the top of the ring the cursor wraps, the fill stays at 4096, and a pushed 0x00 is unlisted. -/
theorem test_dict_wraps :
    let d : Dict := { ring := [(0, 0x5A#8), (4095, 0x41#8)], wcur := 4095#12, fill := 4096#13 }
    (d.push 0x00#8, (d.push 0x42#8).read 4095) =
      (({ ring := [(0, 0x5A#8)], wcur := 0#12, fill := 4096#13 } : Dict), 0x42#8) := by decide +kernel

/-! ### Commands (95_test_vectors.md sections 2.1 to 2.5) -/

/-- `CRC32(0, "123456789")`. -/
theorem test_crc32_check :
    answers (exec (.crc32 0 [0x31#8, 0x32#8, 0x33#8, 0x34#8, 0x35#8, 0x36#8, 0x37#8, 0x38#8, 0x39#8]) State.reset) =
      [.ok (.word 0x2DFD2D88#32)] := by decide +kernel

theorem test_crc32_incoming : answers (exec (.crc32 0x12345678#32 [0x61#8]) State.reset) = [.ok (.word 0x64799C96#32)] := by
  decide +kernel

/-- The containers of the empty input and of `a`. -/
theorem test_compress_empty : answers (exec (.compress tagCompressed []) State.reset) = [.ok (.bytes emptyContainer)] := by
  decide +kernel

/-- The empty input needs 19 bytes (R146): under a smaller `MAX_OUT` it is `InputTooLarge(OutputLimit)` (R131). -/
theorem test_compress_output_limit :
    answers (exec (.compress tagCompressed []) { State.reset with cfg := { Config.standard with maxOut := 18 } }) =
      [.err (.inputTooLarge .outputLimit)] := by decide +kernel

theorem test_compress_a :
    answers (exec (.compress tagCompressed [0x61#8]) State.reset) =
      [.ok (.bytes (container 16 1 tagCompressed 0x56B217D1#32 [0x02#8, 0x61#8, 0x0D#8, 0x00#8]))] := by decide +kernel

/-- A self-overlapping reference: `REF off=0x0CE len=5` repeats the seed's last byte (R167). -/
theorem test_decompress_overlap :
    answers (exec (.decompress (container 17 5 tagCompressed 0x65A0944C#32 [0x03#8, 0x0C#8, 0xE3#8, 0x0D#8, 0x40#8])) State.reset) =
      [.ok (.bytes (List.replicate 5 0x78#8))] := by decide +kernel

/-- A literal that does not fit comes before the CRC check (R174). -/
theorem test_decompress_overflow :
    answers (exec (.decompress (container 16 0 tagCompressed 0 [0x02#8, 0x61#8, 0x0D#8, 0x00#8])) State.reset) =
      [.err .outputOverflow] := by decide +kernel

/-- The empty payload of R163, and one byte left for a reference body (R169). -/
theorem test_decompress_underrun :
    answers (exec (.decompress (container 12 0 tagCompressed 0 [])) State.reset) = [.err (.inputUnderrun .controlByte)] ∧
      answers (exec (.decompress (container 0 0 tagCompressed 0 [0x00#8])) State.reset) = [.err (.inputUnderrun .literalBody)] ∧
      answers (exec (.decompress (container 0 0 tagCompressed 0 [0x01#8])) State.reset) = [.err (.inputUnderrun .referenceBody)] ∧
      answers (exec (.decompress (container 0 0 tagCompressed 0 [0x01#8, 0x0C#8])) State.reset) =
        [.err (.inputUnderrun .referenceBody)] := by decide +kernel

theorem test_parse_header_fields :
    answers (exec (.parseHeader (container 0 5 tagUncompressed 7 [0x61#8])) State.reset) =
      [.ok (.header ⟨0, 5, tagUncompressed, 7⟩)] := by decide

theorem test_lex_open : after (exec (.lexOpen [0x5C#8]) State.reset) (fun t => (t.lstate 1, t.lcur 1)) = some (some .ready, some 0) := by
  decide

/-- `\bin3 abc}`: `W(bin, 3)` with `LCUR = 6`. -/
theorem test_lex_next_bin :
    let s := lexState (lexAt [0x5C#8, 0x62#8, 0x69#8, 0x6E#8, 0x33#8, 0x20#8, 0x61#8, 0x62#8, 0x63#8, 0x7D#8] 0 .ready)
    after (exec (.lexNext 1) s) (fun t => (t.responses.map Prod.snd, t.lcur 1)) =
      some ([.ok (.token (.controlWord [0x62#8, 0x69#8, 0x6E#8] (some 3)))], some 6) := by decide +kernel

/-- `\a9999999999` and a space: 9999999999 with the default `PARAM_CONVERT` (95_test_vectors.md section 2.5.1), and what a 32-bit wrap and a
32-bit saturation of that value are by hand: 9999999999 - 2 * 2^32, and 2^31 - 1. -/
theorem test_lex_next_wide_parameter :
    let buf : Buffer := 0x5C#8 :: 0x61#8 :: List.replicate 10 0x39#8 ++ [0x20#8]
    let run := fun ps : List ParamPiece =>
      answers (exec (.lexNext 1) { lexState (lexAt buf 0 .ready) with cfg := { Config.standard with paramPieces := ps } })
    run [] = [.ok (.token (.controlWord [0x61#8] (some 9999999999)))] ∧
      run [⟨0x1_8000_0000, 0x2_7FFF_FFFF, 1, -0x2_0000_0000⟩] = [.ok (.token (.controlWord [0x61#8] (some 1410065407)))] ∧
      run [⟨0x8000_0000, 9999999999, 0, 0x7FFF_FFFF⟩] = [.ok (.token (.controlWord [0x61#8] (some 2147483647)))] := by decide +kernel

/-- `\par` at the end of the buffer: `BufferUnderrun`, and the instance is `FAILED`. -/
theorem test_lex_next_underrun :
    let s := lexState (lexAt [0x5C#8, 0x70#8, 0x61#8, 0x72#8] 0 .ready)
    after (exec (.lexNext 1) s) (fun t => (t.responses.map Prod.snd, t.lstate 1)) =
      some ([.err (.lexError .bufferUnderrun)], some .failed) := by decide +kernel

/-- `LEX_SKIP(3)` at 6 of 10 bytes, and `LEX_SKIP(5)`, which leaves `LCUR`. -/
theorem test_lex_skip :
    let s := lexState (lexAt [0x5C#8, 0x62#8, 0x69#8, 0x6E#8, 0x33#8, 0x20#8, 0x61#8, 0x62#8, 0x63#8, 0x7D#8] 6 .ready)
    after (exec (.lexSkip 1 3) s) (fun t => (t.responses.map Prod.snd, t.lcur 1)) =
        some ([.ok (.bytes [0x61#8, 0x62#8, 0x63#8])], some 9) ∧
      after (exec (.lexSkip 1 5) s) (fun t => (t.responses.map Prod.snd, t.lcur 1)) =
        some ([.err (.invalidArgument .skipTooLong)], some 6) := by decide

theorem test_lex_close :
    after (exec (.lexClose 1) (lexState (lexAt [] 0 .failed))) (fun t => (t.lstate 1, t.responses.map Prod.snd)) =
      some (none, [.ok .nothing]) := by decide

/-! ### Elements, each executed by the step of a command in progress -/

/-- A `DECOMPRESS` that reads its header: the stream is set up at index 16. -/
theorem test_step_hdrLZFu :
    after (step (engineState (.dec (Dec.start .decompress emptyContainer)))) (fun t => (t.dphase 1, (t.dictOf 1).map Dict.wcur)) =
      some (.ctrl, some 207) := by decide +kernel

/-- `HEADER`, then `DONE`, then the response and `IDLE` (R179). -/
theorem test_step_hdrMELA :
    let s := engineState (.dec (Dec.start .decompress (container 0 5 tagUncompressed 7 [0x61#8])))
    s.dphase 1 = .header ∧ after (step s) (fun t => t.dphase 1) = some .done ∧
      after (Host.Core.run Sys2Proof.core 2 { s with moves := [.advance 1, .advance 1] })
          (fun t => (t.dphase 1, t.responses.map Prod.snd)) = some (.idle, [.ok (.bytes [0x61#8])]) := by decide

theorem test_step_hdrOther :
    answers (step (engineState (.dec (Dec.start .parseHeader (container 0 0 5 0 []))))) =
      [.err (.malformedHeader .unknownCompType)] := by decide

theorem test_step_ctrl :
    after (step (engineState (.dec (decAt [0x02#8, 0x61#8] 1 .ctrl 0 16 0)))) (fun t => t.dphase 1) = some .token := by decide +kernel

/-- Payload `02 61 0D 00`, slot 0: `RING[207] = 0x61` and `WCUR = 208` (R165). -/
theorem test_step_lit :
    after (step (engineState (.dec (decAt [0x02#8, 0x61#8, 0x0D#8, 0x00#8] 1 .token 0x02#8 17 0))))
        (fun t => (t.dictOf 1).map (fun d => (d.wcur, d.read 207))) =
      some (some (208#12, 0x61#8)) := by decide +kernel

/-- Positions not yet pushed hold 0x00, also right at the cursor (R167). -/
theorem test_step_ref :
    after (step (engineState (.dec (decAt [0x03#8, 0x0D#8, 0x12#8, 0x0D#8, 0x30#8] 4 .token 0x03#8 17 0))))
        (fun t => (t.dictOf 1).map (fun d => (d.wcur, d.fill, d.read 207))) =
      some (some (211#12, 211#13, 0x00#8)) := by decide +kernel

/-- `COPY` inside a `TOKEN`: after the copy `COPY_I = COPY_LEN`, and the next slot follows (R167, R179). -/
theorem test_step_copy :
    let s := engineState (.dec (decAt [0x03#8, 0x0D#8, 0x12#8, 0x0D#8, 0x30#8] 4 .token 0x03#8 17 0))
    after (step s) (fun t => t.dphase 1) = some .copy ∧
      after (Host.Core.run Sys2Proof.core 2 { s with moves := [.advance 1, .advance 1] }) (fun t => t.dphase 1) = some .token := by
  decide +kernel

/-- The EOS is recognised by its offset alone (R166). -/
theorem test_step_eos :
    after (step (engineState (.dec (decAt [0x01#8, 0x0C#8, 0xF5#8] 0 .token 0x01#8 17 0)))) (fun t => (t.eosSeen 1, t.dphase 1)) =
      some (true, .trail) := by decide +kernel

/-- The records of kinds 0 to 4 end their `LEX_NEXT` (R88). -/
theorem test_step_records :
    answers (step (lexState (foundAt recordEnd))) = [.ok (.token .endOfStream)] ∧
      answers (step (lexState (foundAt (recordGroup true)))) = [.ok (.token (.group true))] ∧
      answers (step (lexState (foundAt (recordControlSymbol 0x2A#8)))) = [.ok (.token (.controlSymbol 0x2A#8))] ∧
      answers (step (lexState (foundAt (recordControlWord [0x62#8] none)))) = [.ok (.token (.controlWord [0x62#8] none))] ∧
      answers (step (lexState (foundAt (recordText [0x68#8])))) = [.ok (.token (.text [0x68#8]))] := by decide

/-- With no pending text each syntax element moves `LCUR` past itself. -/
theorem test_step_rtf_cursor :
    after (step (lexState (scanAt [0x7B#8] 0 0))) (fun t => t.lcur 1) = some (some 1) ∧
      after (step (lexState (scanAt [0x7D#8] 0 0))) (fun t => t.lcur 1) = some (some 1) ∧
      after (step (lexState (scanAt [0x5C#8, 0x5C#8] 0 0))) (fun t => t.lcur 1) = some (some 2) ∧
      after (step (lexState (scanAt [0x5C#8, 0x62#8, 0x20#8, 0x20#8] 0 0))) (fun t => t.lcur 1) = some (some 3) ∧
      after (step (lexState (scanAt [0x0D#8, 0x0A#8] 0 0))) (fun t => t.lcur 1) = some (some 1) ∧
      after (step (lexState (scanAt [0x61#8, 0x62#8, 0x7B#8] 0 0))) (fun t => t.lcur 1) = some (some 2) := by decide

/-- With pending text a brace is not consumed (R183). -/
theorem test_step_flush : after (step (lexState (scanAt [0x61#8, 0x7B#8] 0 1))) (fun t => t.lcur 1) = some (some 1) := by decide

/-! ### The word of the opcode table -/

/-- A bare command code on the port right after reset is executed, and so is a staged element. -/
theorem test_fetch_word :
    answers (step (State.reset.withFetchWord 8 0x05)) = [.ok (.lexer 1)] ∧
      answers (step (State.reset.withFetchWord 8 0x06)) = [.ok (.token .endOfStream)] ∧
      (after (step (State.reset.withFetchWord 8 0x7B)) (fun t => t.lcur 0)) = some (some 1) ∧
      decodeTableWord 16 0xF00C = some (.eos 0x0CF#12 0) := by decide +kernel

/-! ### Witnesses: for each statement with hypotheses, a state and operands that meet them, clause by clause -/

theorem witness_DecodeOfEncodeGivesTheInstruction :
    (Instr.rtfControlWord [0x61#8] false [] false).wf = true ∧ follows (.rtfControlWord [0x61#8] false [] false) [0x7D#8] = true ∧
      (Instr.rtfControlWord [0x61#8] true [] false).wf = true ∧ follows (.rtfControlWord [0x61#8] true [] false) [] = true ∧
      (Instr.rtfText [0x61#8]).wf = true ∧ follows (.rtfText [0x61#8]) [0x0A#8] = true := by decide

theorem witness_DecodedInstructionReencodesToItsBytes :
    decode (.body true 0xFFF#12 [0xFF#8, 0xF0#8, 0x01#8]) = .ok (.eos 0xFFF#12 0, [0x01#8]) := by decide

theorem witness_StepRunsTheDecodedCommand :
    State.reset.moves = [] ∧
      (let s : State := { State.reset with moves := [.run 1 (command 0x08#8)] }
       s.moves = .run 1 (command 0x08#8) :: [] ∧ s.tagBusy 1 = false ∧ decode (.command (command 0x08#8)) = .ok (.lexClose 1, [])) ∧
      (command 0x00#8).code = 0 ∧ 8 < (command 0x09#8).code.toNat := by decide

theorem witness_StepRunsTheDecodedElement :
    let s := engineState (.dec (decAt [0x02#8, 0x61#8] 1 .token 0x02#8 17 0))
    s.moves = .advance 1 :: [] ∧ (s.take [] 1).next = some (.read (.body false 207 [0x61#8])) ∧
      decode (.body false 207 [0x61#8]) = .ok (.lit 0x61#8, []) := by decide +kernel

theorem witness_TransactionEqualsStepByStep : State.reset.inv = true ∧ State.reset.tagBusy 1 = false := by decide

/-- A sound state with a decompressor at a token, and one with a lexer, each with a next state. -/
theorem witness_StepKeepsSoundness :
    (engineState (.dec (decAt [0x02#8, 0x61#8] 1 .token 0x02#8 17 0))).inv = true ∧
      (lexState (scanAt [0x61#8, 0x7B#8] 0 1)).inv = true ∧
      (answers (step (engineState (.dec (decAt [0x02#8] 1 .token 0x02#8 17 0)))) ≠ []) ∧
      ∃ t, step (lexState (scanAt [0x61#8, 0x7B#8] 0 1)) = .next t := ⟨by decide +kernel, by decide, by decide, _, rfl⟩

theorem witness_SoundStatesNeverFault : State.reset.inv = true := by decide

theorem witness_StepAddsAtMostOneResponse : ∃ t, step { State.reset with moves := [.run 1 (command 0x05#8)] } = .next t := ⟨_, rfl⟩

theorem witness_InstancesAreIsolated :
    (∃ t, exec (.lexOpen []) State.reset = .next t) ∧ (1 : Nat) ≠ State.reset.focus ∧ lexerOf (.lexOpen []) State.reset ≠ some 2 :=
  ⟨⟨_, rfl⟩, by decide, by decide⟩

theorem witness_PushWritesAtTheCursor :
    Dict.new.ring.wf = true ∧ (206#12 ≠ Dict.new.wcur) ∧ Dict.new.fill.toNat < 4096 ∧
      (let d : Dict := { ring := [(4095, 0x41#8)], wcur := 4095#12, fill := 4095#13 }
       d.ring.wf = true ∧ d.fill.toNat < 4096) ∧
      (let d : Dict := { ring := [(0, 0x41#8)], wcur := 0#12, fill := 4096#13 }
       d.ring.wf = true ∧ d.fill.toNat = 4096) := by decide +kernel

theorem witness_PushesFillTheWindow : 0 < ([0x41#8] : Buffer).length ∧ ([0x41#8] : Buffer).length ≤ 0 + 4096 := by decide

theorem witness_CrcDetectsEverySingleBitFlip : 0 < ([0x00#8] : Buffer).length ∧ 7 < 8 := by decide

theorem witness_ParseHeaderReturnsTheFields :
    (tagCompressed = tagCompressed ∨ tagCompressed = tagUncompressed) ∧
      (tagUncompressed = tagCompressed ∨ tagUncompressed = tagUncompressed) := by decide

theorem witness_ShortContainersAreTooShort : (List.replicate 15 0x4C#8 : Buffer).length < 16 := by decide

theorem witness_HeaderFieldErrors :
    (0x754C5A46#32 ≠ tagCompressed ∧ 0x754C5A46#32 ≠ tagUncompressed) ∧
      (let s : State := { State.reset with cfg := { Config.standard with maxOut := 16 } }
       s.cfg.maxOut < (17#32).toNat) := by decide

theorem witness_CompressRawMode :
    ([] : Buffer).length + 12 ≤ maxField ∧
      (let s : State := { State.reset with cfg := { Config.standard with maxOut := 16 } }
       ([] : Buffer).length + 16 ≤ s.cfg.maxOut) := by decide

theorem witness_CompressRefusalsInOrder :
    (0#32 ≠ tagCompressed ∧ 0#32 ≠ tagUncompressed) ∧
      maxField < (List.replicate 4294967296 0x00#8 : Buffer).length ∧
      maxField < (List.replicate 4294967284 0x00#8 : Buffer).length + 12 ∧
      (let s : State := { State.reset with cfg := { Config.standard with maxInCompressed := 2 } }
       ([0x61#8, 0x62#8, 0x63#8] : Buffer).length ≤ maxField ∧ s.cfg.maxInCompressed < ([0x61#8, 0x62#8, 0x63#8] : Buffer).length) ∧
      (let s : State := { State.reset with cfg := { Config.standard with maxOut := 18 } }
       ([0x61#8, 0x62#8, 0x63#8] : Buffer).length + 12 ≤ maxField ∧ s.cfg.maxOut < ([0x61#8, 0x62#8, 0x63#8] : Buffer).length + 16) := by
  refine ⟨by decide, ?_, ?_, by decide, by decide⟩ <;> rw [List.length_replicate] <;> decide

/-- The clauses on the final length: at `FINALIZE` outputs of 2^32 + 4 bytes, of 19 bytes over `MAX_OUT` and of 19 bytes within it, and the
container of the empty input under a `MAX_OUT` of 18. -/
theorem witness_CompressRefusalsInOrder_output :
    (∀ n, let c := finalAt n
      let s := engineState (.comp c)
      s.moves = .advance 1 :: [] ∧ Table.get s.engines 1 = some (.comp c) ∧ c.phase = .finalize ∧ c.mode = tagCompressed) ∧
      (16 ≤ (finalAt 4294967300).out.length ∧ maxField < (finalAt 4294967300).out.length - 4) ∧
      (16 ≤ (finalAt 19).out.length ∧ ¬ maxField < (finalAt 19).out.length - 4) ∧
      exec (.compress tagCompressed []) State.reset = .next (State.reset.finish (.ok (.bytes emptyContainer))) ∧
      (let t : State := { State.reset with cfg := { Config.standard with maxOut := 18 } }
       ([] : Buffer).length ≤ t.cfg.maxInCompressed ∧ t.cfg.maxOut < emptyContainer.length) := by
  refine ⟨fun _ => ⟨rfl, rfl, rfl, rfl⟩, ⟨?_, ?_⟩, by decide, rfl, by decide⟩ <;>
    rw [show (finalAt 4294967300).out.length = 4294967300 from List.length_replicate ..] <;> decide

theorem witness_CompressCompletesWithinTheWorstCase :
    let s : State := { State.reset with cfg := { maxOut := 19, maxInCompressed := 0, paramPieces := [] } }
    ([] : Buffer).length ≤ s.cfg.maxInCompressed ∧ ([] : Buffer).length + ([] : Buffer).length / 8 + 19 ≤ s.cfg.maxOut ∧
      ([] : Buffer).length + ([] : Buffer).length / 8 + 15 ≤ maxField := by decide

theorem witness_CompressAlwaysAnswers : State.reset.cfg = Config.standard := rfl

theorem witness_SearchPushesWhatItConsumes : ([0x61#8] : Buffer) ≠ [] := by decide

theorem witness_SearchPicksItsCandidate :
    ((searchAll Dict.new [0x61#8]).best ≠ 0 ∧ Dict.new.fill.toNat ≠ 4096) ∧
      (let r := matchFrom 0 0 [0x7B#8, 0x5C#8, 0x5C#8] 0 Dict.new
       r.1 = 2 ∧ r.1 < ([0x7B#8, 0x5C#8, 0x5C#8] : Buffer).length) ∧
      (let c := { compAt [0x61#8] 0 0 0 0 with phase := .search }
       let s := engineState (.comp c)
       s.moves = .advance 1 :: [] ∧ Table.get s.engines 1 = some (.comp c) ∧ c.phase = .search ∧ c.dict = some Dict.new ∧
         c.ip ≠ c.inp.length) := by decide +kernel

theorem witness_CompressorEmitsItsToken :
    (let c := compAt [0x61#8] 0 7 1 7
     let s := engineState (.comp c)
     s.moves = .advance 1 :: [] ∧ Table.get s.engines 1 = some (.comp c) ∧ c.phase = .emit ∧ c.finished = false ∧
       c.dict = some Dict.new ∧ c.ctrl = some 0x00#8 ∧ c.slot = some 7 ∧ c.ctrlPos = some 16 ∧ 16 < c.out.length ∧
       c.inp[c.ip]? = some 0x61#8 ∧ c.best = some 1 ∧ c.bestOff = some 7 ∧ 1 < 2) ∧
      (let c := compAt [0x61#8, 0x62#8] 0 0 2 26
       c.phase = .emit ∧ c.slot = some 0 ∧ c.ip ≠ c.inp.length ∧ c.best = some 2 ∧ c.bestOff = some 26 ∧ 2 ≤ 2 ∧
         c.ctrlPos = some 16 ∧ 16 < c.out.length) ∧
      (let c := compAt [] 0 0 0 0
       c.phase = .emit ∧ c.slot = some 0 ∧ c.ip = c.inp.length ∧ c.ctrlPos = some 16 ∧ 16 < c.out.length) := by decide +kernel

theorem witness_RawRoundTrip :
    exec (.compress tagUncompressed [0x61#8]) State.reset =
      .next (State.reset.finish (.ok (.bytes (container 13 1 tagUncompressed 0 [0x61#8])))) := rfl

theorem witness_CompressedRoundTrip :
    ([] : Buffer).length ≤ 3874 ∧ ([] : Buffer).length ≤ State.reset.cfg.maxOut ∧
      exec (.compress tagCompressed []) State.reset = .next (State.reset.finish (.ok (.bytes emptyContainer))) :=
  ⟨by decide, by decide, rfl⟩

theorem witness_LiteralStreamsDecode :
    ([0x61#8] : Buffer).length ≤ maxField ∧ ([0x61#8] : Buffer).length ≤ State.reset.cfg.maxOut := by decide

theorem witness_DecompressAlwaysAnswers : State.reset.cfg = Config.standard := rfl

theorem witness_AcceptedContainersAreChecked :
    exec (.decompress (container 15 0 tagCompressed 0x10CAD727#32 emptyPayload)) State.reset =
      .next (State.reset.finish (.ok (.bytes []))) := rfl

theorem witness_PayloadBitFlipsAreDetected :
    exec (.decompress (container 15 0 tagCompressed 0x10CAD727#32 emptyPayload)) State.reset =
        .next (State.reset.finish (.ok (.bytes []))) ∧
      0 < emptyPayload.length ∧ 2 < emptyPayload.length ∧ 0 < 8 ∧ 7 < 8 := ⟨rfl, by decide, by decide, by decide, by decide⟩

theorem witness_CompressedHeaderSetsUpTheStream :
    let d := Dec.start .decompress emptyContainer
    let s : State := { engineState (.dec d) with cfg := { Config.standard with maxOut := 16 } }
    Table.get s.engines s.focus = some (.dec d) ∧ d.phase = .header ∧ d.cmd = .decompress ∧ (16#32).toNat ≤ s.cfg.maxOut := by
  decide +kernel

theorem witness_HeadersThatEndTheCommand :
    (let d := Dec.start .decompress emptyContainer
     Table.get (engineState (.dec d)).engines (engineState (.dec d)).focus = some (.dec d) ∧ d.phase = .header ∧ d.cmd = .decompress ∧
       (let t := engineState (.dec { d with hdr := some ⟨0, 5, tagUncompressed, 7⟩, phase := .done })
        t.moves = .advance 1 :: [] ∧
          Table.get t.engines 1 = some (.dec { d with hdr := some ⟨0, 5, tagUncompressed, 7⟩, phase := .done }))) ∧
      (let d := Dec.start .parseHeader emptyContainer
       Table.get (engineState (.dec d)).engines (engineState (.dec d)).focus = some (.dec d) ∧ d.phase = .header ∧
         d.cmd = .parseHeader) := by decide +kernel

theorem witness_ControlByteBeginsARun :
    let d := decAt [0x02#8] 1 .ctrl 0 16 0
    Table.get (engineState (.dec d)).engines (engineState (.dec d)).focus = some (.dec d) ∧ d.phase = .ctrl ∧ d.ip = some 16 ∧
      16 < d.inp.length := by decide +kernel

/-- In slot 7, with the last byte of `IN` and the last byte of `OUT`. -/
theorem witness_LiteralWritesAndPushesItsByte :
    let d := decAt [0x00#8, 0x61#8] 1 .token 0x00#8 17 7
    Table.get (engineState (.dec d)).engines (engineState (.dec d)).focus = some (.dec d) ∧
      d.atToken 17 7 0x00#8 Dict.new ⟨0, 1, tagCompressed, 0⟩ ∧ (0x00#8).getLsbD 7 = false ∧ 17 < d.inp.length ∧
      d.out.length < (1#32).toNat ∧ Dict.new.ring.wf = true ∧ 206#12 ≠ Dict.new.wcur :=
  ⟨rfl, ⟨rfl, rfl, rfl, rfl, rfl, rfl⟩, by decide, by decide, by decide, by decide +kernel, by decide⟩

/-- In slot 7, the longest reference, which fills `OUT`, with the last two bytes of `IN`; and the end of a copy in slots 6 and 7. -/
theorem witness_ReferenceCopiesFromTheLiveRing :
    (let d := decAt [0x80#8, 0x0C#8, 0xEF#8] 17 .token 0x80#8 17 7
    Table.get (engineState (.dec d)).engines (engineState (.dec d)).focus = some (.dec d) ∧
      d.atToken 17 7 0x80#8 Dict.new ⟨0, 17, tagCompressed, 0⟩ ∧ (0x80#8).getLsbD 7 = true ∧ 0x0CE#12 ≠ Dict.new.wcur ∧
      17 + 2 ≤ d.inp.length ∧ d.out.length + ((15#4).toNat + 2) ≤ (17#32).toNat ∧ Dict.new.ring.wf = true) ∧
      (∀ bit, let d := decAt [0x80#8, 0x0C#8, 0xEF#8] 17 .copy 0x80#8 19 bit
        let s := engineState (.dec d)
        s.moves = .advance 1 :: [] ∧ Table.get s.engines 1 = some (.dec d) ∧ d.phase = .copy ∧ d.bit = some bit) :=
  ⟨⟨rfl, ⟨rfl, rfl, rfl, rfl, rfl, rfl⟩, by decide, by decide, by decide, by decide, by decide +kernel⟩,
    fun _ => ⟨rfl, rfl, rfl, rfl⟩⟩

theorem witness_DistanceOneRepeatsTheByte :
    Dict.new.ring.wf = true ∧ 0x0CE#12 + 1 = Dict.new.wcur ∧ ([] : Buffer).length + 17 ≤ 17 ∧ 17 ≤ 17 := by decide +kernel

theorem witness_StreamErrorsEndTheCommand :
    (let d := decAt [0x02#8, 0x61#8] 0 .token 0x02#8 17 0
     Table.get (engineState (.dec d)).engines (engineState (.dec d)).focus = some (.dec d) ∧
       d.atToken 17 0 0x02#8 Dict.new ⟨0, 0, tagCompressed, 0⟩ ∧ d.out.length ≤ (0#32).toNat ∧ (0x02#8).getLsbD 0 = false ∧
       17 < d.inp.length ∧ d.out.length = (0#32).toNat) ∧
      (let d := decAt [0x01#8, 0x00#8, 0x00#8] 1 .token 0x01#8 17 0
       Table.get (engineState (.dec d)).engines (engineState (.dec d)).focus = some (.dec d) ∧
         d.atToken 17 0 0x01#8 Dict.new ⟨0, 1, tagCompressed, 0⟩ ∧ d.out.length ≤ (1#32).toNat ∧ (0x01#8).getLsbD 0 = true ∧
         0#12 ≠ Dict.new.wcur ∧ 17 + 2 ≤ d.inp.length ∧ (1#32).toNat < d.out.length + ((0#4).toNat + 2)) :=
  ⟨⟨rfl, ⟨rfl, rfl, rfl, rfl, rfl, rfl⟩, by decide, by decide, by decide, rfl⟩,
    rfl, ⟨rfl, rfl, rfl, rfl, rfl, rfl⟩, by decide, by decide, by decide, by decide, by decide⟩

/-- A payload that ends at a control byte, at a literal body, at a reference body, and inside one; and the least bit values of a control
byte. -/
theorem witness_StreamErrorsEndTheCommand_underrun :
    (let d := decAt [] 0 .ctrl 0 16 0
     let s := engineState (.dec d)
     s.moves = .advance 1 :: [] ∧ Table.get s.engines 1 = some (.dec d) ∧ d.ip = some 16 ∧ d.phase = .ctrl ∧ d.inp.length ≤ 16) ∧
      (let d := decAt [0x00#8] 1 .token 0x00#8 17 0
       Table.get (engineState (.dec d)).engines 1 = some (.dec d) ∧ d.ip = some 17 ∧
         d.atToken 17 0 0x00#8 Dict.new ⟨0, 1, tagCompressed, 0⟩ ∧ (0x00#8).getLsbD 0 = false ∧ d.inp.length ≤ 17) ∧
      (let d := decAt [0x01#8] 1 .token 0x01#8 17 0
       Table.get (engineState (.dec d)).engines 1 = some (.dec d) ∧ d.ip = some 17 ∧
         d.atToken 17 0 0x01#8 Dict.new ⟨0, 1, tagCompressed, 0⟩ ∧ (0x01#8).getLsbD 0 = true ∧ d.inp.length < 17 + 2) ∧
      (let d := decAt [0x01#8, 0x0C#8] 1 .token 0x01#8 17 0
       Table.get (engineState (.dec d)).engines 1 = some (.dec d) ∧ d.ip = some 17 ∧
         d.atToken 17 0 0x01#8 Dict.new ⟨0, 1, tagCompressed, 0⟩ ∧ d.inp.length = 17 + 1) ∧
      ((0#32).toNat ≤ State.reset.cfg.maxOut ∧ (0xFE#8).getLsbD 0 = false ∧ (0x01#8).getLsbD 0 = true) :=
  ⟨⟨rfl, rfl, rfl, rfl, by decide⟩, ⟨rfl, rfl, ⟨rfl, rfl, rfl, rfl, rfl, rfl⟩, by decide, by decide⟩,
    ⟨rfl, rfl, ⟨rfl, rfl, rfl, rfl, rfl, rfl⟩, by decide, by decide⟩,
    ⟨rfl, rfl, ⟨rfl, rfl, rfl, rfl, rfl, rfl⟩, rfl⟩, by decide, by decide, by decide⟩

/-- Another command's engine, and a lexer that stands at `\par` at the end of its buffer. -/
theorem witness_RaisingAnErrorEndsTheCommand :
    (2 : Nat) ≠ (engineState (.dec (Dec.start .decompress []))).focus ∧
      (let l := scanAt [0x5C#8, 0x70#8, 0x61#8, 0x72#8] 0 0
       let s := lexState l
       s.moves = .advance 1 :: [] ∧ Table.get s.engines 1 = none ∧ (s.take [] 1).scans 1 l (LexRun.start 1 0) ∧
         (LexRun.start 1 0).tstart = l.cur ∧ l.cur ≤ l.buf.length ∧
         decode (.rtf (l.buf.drop l.cur)) = .error (.lexical .bufferUnderrun 4)) :=
  ⟨by decide, rfl, rfl, ⟨rfl, rfl, rfl, rfl⟩, rfl, by decide, by decide⟩

theorem witness_EndOfStreamEndsTheTokenLoop :
    let d := decAt [0x01#8, 0x0C#8, 0xFF#8] 0 .token 0x01#8 17 0
    Table.get (engineState (.dec d)).engines (engineState (.dec d)).focus = some (.dec d) ∧
      d.atToken 17 0 0x01#8 Dict.new ⟨0, 0, tagCompressed, 0⟩ ∧ (0x01#8).getLsbD 0 = true ∧ 17 + 2 ≤ d.inp.length :=
  ⟨rfl, ⟨rfl, rfl, rfl, rfl, rfl, rfl⟩, by decide, by decide⟩

theorem witness_ChecksAfterTheEndOfStream :
    (let d := decAt emptyPayload 0 .trail 0x01#8 19 1
     let s := engineState (.dec d)
     s.moves = .advance 1 :: [] ∧ Table.get s.engines 1 = some (.dec d) ∧ d.hdr = some ⟨0, 0, tagCompressed, 0⟩ ∧ d.phase = .trail ∧
       d.ip = some 19 ∧ 19 ≤ d.inp.length) ∧
      (let d := { decAt emptyPayload 0 .check 0x01#8 19 1 with crcAcc := 1 }
       Table.get (engineState (.dec d)).engines 1 = some (.dec d) ∧ d.phase = .check ∧ d.crcAcc ≠ 0) ∧
      (let d := decAt emptyPayload 1 .check 0x01#8 19 1
       Table.get (engineState (.dec d)).engines 1 = some (.dec d) ∧ d.phase = .check ∧ d.crcAcc = 0 ∧ d.out.length ≠ (1#32).toNat) ∧
      (let d := decAt emptyPayload 0 .check 0x01#8 19 1
       Table.get (engineState (.dec d)).engines 1 = some (.dec d) ∧ d.phase = .check ∧ d.crcAcc = 0 ∧ d.out.length = (0#32).toNat) ∧
      (let d := decAt emptyPayload 0 .done 0x01#8 19 1
       Table.get (engineState (.dec d)).engines 1 = some (.dec d) ∧ d.hdr = some ⟨0, 0, tagCompressed, 0⟩ ∧ d.phase = .done) ∧
      (let d := { Dec.start .decompress emptyContainer with hdr := some ⟨0, 5, tagUncompressed, 7⟩, phase := .done }
       Table.get (engineState (.dec d)).engines 1 = some (.dec d) ∧ d.hdr = some ⟨0, 5, tagUncompressed, 7⟩ ∧ d.phase = .done) := by
  decide +kernel

theorem witness_LexOpenMakesAnInstance : (0 : Nat) ≠ State.reset.nextLexer := by decide

theorem witness_LexNextAlwaysAnswers :
    let l := lexAt [0x61#8] 0 .ready
    (lexState l).hasLexer 1 l ∧ l.cur ≤ l.buf.length ∧ l.state = .ready ∧
      exec (.lexNext 1) (lexState l) =
        .next (((lexState l).putLexer 1 (lexAt [0x61#8] 1 .ready)).finish (.ok (.token (.text [0x61#8])))) ∧
      Token.text [0x61#8] ≠ .endOfStream := ⟨⟨rfl, rfl⟩, by decide, rfl, rfl, by decide⟩

theorem witness_LexNextReturnsText :
    let l := lexAt [0x7B#8, 0x61#8, 0x0D#8] 1 .ready
    (lexState l).hasLexer 1 l ∧ l.state = .ready ∧ l.buf.drop l.cur = [0x61#8] ++ [0x0D#8] ∧ ([0x61#8] : Buffer) ≠ [] ∧
      (∀ c ∈ ([0x61#8] : Buffer), isOrdinary c = true) ∧ startsWithout isOrdinary [0x0D#8] = true :=
  ⟨⟨rfl, rfl⟩, rfl, rfl, by decide, by decide, by decide⟩

theorem witness_LexNextAtABrace :
    (let l := lexAt [0x7B#8] 0 .ready
     (lexState l).hasLexer 1 l ∧ l.state = .ready ∧ (∀ c ∈ ([] : Buffer), isOrdinary c = true) ∧
       l.buf.drop l.cur = [] ++ (if true then 0x7B#8 else 0x7D#8) :: []) ∧
      (let l := lexAt [0x61#8, 0x7D#8] 0 .ready
       (lexState l).hasLexer 1 l ∧ l.state = .ready ∧ (∀ c ∈ ([0x61#8] : Buffer), isOrdinary c = true) ∧
         l.buf.drop l.cur = [0x61#8] ++ (if false then 0x7B#8 else 0x7D#8) :: []) :=
  ⟨⟨⟨rfl, rfl⟩, rfl, by decide, rfl⟩, ⟨rfl, rfl⟩, rfl, by decide, rfl⟩

/-- The longest keyword and parameter that the grammar admits, at the end of the buffer, and a control symbol there. -/
theorem witness_LexNextReturnsControlTokens :
    (let l := lexAt (0x5C#8 :: List.replicate 32 0x61#8 ++ 0x2D#8 :: List.replicate 10 0x39#8) 0 .ready
     (lexState l).hasLexer 1 l ∧ l.state = .ready ∧
       (Instr.rtfControlWord (List.replicate 32 0x61#8) true (List.replicate 10 0x39#8) false).wf = true ∧
       follows (.rtfControlWord (List.replicate 32 0x61#8) true (List.replicate 10 0x39#8) false) [] = true ∧
       l.buf.drop l.cur =
         (encode (.rtfControlWord (List.replicate 32 0x61#8) true (List.replicate 10 0x39#8) false)).bytes ++ []) ∧
      (let l := lexAt [0x5C#8, 0x0A#8] 0 .ready
       (lexState l).hasLexer 1 l ∧ l.state = .ready ∧ isLetter 0x0A#8 = false ∧ l.buf.drop l.cur = 0x5C#8 :: 0x0A#8 :: []) ∧
      (∃ lo hi : Int, lo = -2147483647 ∧ hi = 2147483647 ∧ -(2 ^ 31 - 1) ≤ lo ∧ lo ≤ 2 ^ 31 - 1 ∧ -(2 ^ 31 - 1) ≤ hi ∧
        hi ≤ 2 ^ 31 - 1) :=
  ⟨⟨⟨rfl, rfl⟩, rfl, by decide, by decide, rfl⟩, ⟨⟨rfl, rfl⟩, rfl, by decide, rfl⟩, _, _, rfl, rfl, by decide, by decide, by decide,
    by decide⟩

theorem witness_LexNextAtALineBreak :
    (let l := lexAt [0x0D#8, 0x0A#8] 0 .ready
     (lexState l).hasLexer 1 l ∧ l.state = .ready ∧ (∀ b ∈ ([] : Buffer), isOrdinary b = true) ∧
       (0x0D#8 = 0x0D#8 ∨ 0x0D#8 = 0x0A#8) ∧ l.buf.drop l.cur = [] ++ 0x0D#8 :: [0x0A#8]) ∧
      (let l := lexAt [0x61#8, 0x0A#8] 0 .ready
       (lexState l).hasLexer 1 l ∧ l.state = .ready ∧ (∀ b ∈ ([0x61#8] : Buffer), isOrdinary b = true) ∧
         (0x0A#8 = 0x0D#8 ∨ 0x0A#8 = 0x0A#8) ∧ l.buf.drop l.cur = [0x61#8] ++ 0x0A#8 :: []) :=
  ⟨⟨⟨rfl, rfl⟩, rfl, by decide, by decide, rfl⟩, ⟨rfl, rfl⟩, rfl, by decide, by decide, rfl⟩

/-- A lone backslash and 32 letters at the end of the buffer, 33 letters, and 11 digits after a sign. -/
theorem witness_LexicalErrorsFailTheInstance :
    (let l := lexAt [0x5C#8] 0 .ready
     (lexState l).hasLexer 1 l ∧ l.state = .ready ∧ l.buf.drop l.cur = 0x5C#8 :: [] ∧ ([] : Buffer).length ≤ 32) ∧
      (let kw : Buffer := List.replicate 32 0x7A#8
       let l := lexAt (0x5C#8 :: kw) 0 .ready
       (lexState l).hasLexer 1 l ∧ l.state = .ready ∧ (∀ c ∈ kw, isLetter c = true) ∧ l.buf.drop l.cur = 0x5C#8 :: kw ∧
         kw.length ≤ 32) ∧
      (let kw : Buffer := List.replicate 33 0x41#8
       let l := lexAt (0x5C#8 :: kw ++ [0x20#8]) 0 .ready
       (lexState l).hasLexer 1 l ∧ l.state = .ready ∧ (∀ c ∈ kw, isLetter c = true) ∧
         l.buf.drop l.cur = 0x5C#8 :: kw ++ [0x20#8] ∧ kw.length = 33) ∧
      (let kw : Buffer := [0x61#8]
       let ds : Buffer := List.replicate 11 0x30#8
       let l := lexAt (0x5C#8 :: kw ++ [0x2D#8] ++ ds ++ []) 0 .ready
       (lexState l).hasLexer 1 l ∧ l.state = .ready ∧ (∀ c ∈ kw, isLetter c = true) ∧ (∀ c ∈ ds, isDigit c = true) ∧
         l.buf.drop l.cur = 0x5C#8 :: kw ++ (if true then [0x2D#8] else []) ++ ds ++ [] ∧ 1 ≤ kw.length ∧ kw.length ≤ 32 ∧
         ds.length = 11) :=
  ⟨⟨⟨rfl, rfl⟩, rfl, rfl, by decide⟩, ⟨⟨rfl, rfl⟩, rfl, by decide, rfl, by decide⟩, ⟨⟨rfl, rfl⟩, rfl, by decide, rfl, by decide⟩,
    ⟨rfl, rfl⟩, rfl, by decide, by decide, rfl, by decide, by decide, by decide⟩

theorem witness_TerminalLexersStay :
    ((lexState (lexAt [0x61#8] 1 .ready)).hasLexer 1 (lexAt [0x61#8] 1 .ready) ∧ (lexAt [0x61#8] 1 .ready).cur = 1) ∧
      (lexState (lexAt [] 0 .failed)).hasLexer 1 (lexAt [] 0 .failed) ∧
      (lexState (lexAt [] 0 .exhausted)).hasLexer 1 (lexAt [] 0 .exhausted) :=
  ⟨⟨⟨rfl, rfl⟩, rfl⟩, ⟨rfl, rfl⟩, rfl, rfl⟩

/-- Lengths 1, 0 and 2 where one byte remains. -/
theorem witness_LexSkipReturnsRawBytes :
    let l := lexAt [0x61#8, 0x62#8] 1 .ready
    (lexState l).hasLexer 1 l ∧ l.state = .ready ∧ l.cur ≤ l.buf.length ∧
      (l.buf.drop l.cur = [0x62#8] ++ [] ∧ ([0x62#8] : Buffer) ≠ [] ∧ (1 : Int) = ([0x62#8] : Buffer).length) ∧
      ((0 : Int) ≤ 0) ∧ ((l.buf.length : Int) - l.cur < 2 ∧ (0 : Int) < 2) :=
  ⟨⟨rfl, rfl⟩, rfl, by decide, ⟨rfl, by decide, rfl⟩, by decide, by decide, by decide⟩

theorem witness_LexCloseEndsTheInstance : (lexState (lexAt [] 0 .exhausted)).hasLexer 1 (lexAt [] 0 .exhausted) ∧ (2 : Nat) ≠ 1 :=
  ⟨⟨rfl, rfl⟩, by decide⟩

theorem witness_LexerProtocolViolationsAreRefused :
    Table.get State.reset.lexers 1 = none ∧
      Table.get (lexState (scanAt [] 0 0)).lexers 1 = some (scanAt [] 0 0) ∧ (scanAt [] 0 0).run ≠ none := by decide

/-- Each element ends exactly at the end of the buffer. -/
theorem witness_SyntaxElementsAreConsumed :
    ((lexState (scanAt [0x7B#8] 0 0)).scans 1 (scanAt [0x7B#8] 0 0) (LexRun.start 1 0) ∧
        (scanAt [0x7B#8] 0 0).cur + 1 ≤ (scanAt [0x7B#8] 0 0).buf.length) ∧
      ((lexState (scanAt [0x5C#8, 0x2A#8] 0 0)).scans 1 (scanAt [0x5C#8, 0x2A#8] 0 0) (LexRun.start 1 0) ∧
        (scanAt [0x5C#8, 0x2A#8] 0 0).cur + 2 ≤ (scanAt [0x5C#8, 0x2A#8] 0 0).buf.length) ∧
      (let l := scanAt [0x5C#8, 0x62#8, 0x2D#8, 0x31#8, 0x20#8] 0 0
       (lexState l).scans 1 l (LexRun.start 1 0) ∧ (LexRun.start 1 0).tstart = l.cur ∧
         l.cur + (1 + ([0x62#8] : Buffer).length + true.toNat + ([0x31#8] : Buffer).length + true.toNat) ≤ l.buf.length) :=
  ⟨⟨⟨rfl, rfl, rfl, rfl⟩, by decide⟩, ⟨⟨rfl, rfl, rfl, rfl⟩, by decide⟩, ⟨rfl, rfl, rfl, rfl⟩, rfl, by decide⟩

theorem witness_DelimitersFlushPendingText :
    (lexState (scanAt [0x61#8, 0x7B#8] 0 1)).scans 1 (scanAt [0x61#8, 0x7B#8] 0 1) (LexRun.start 1 0) ∧
      (LexRun.start 1 0).tstart < (scanAt [0x61#8, 0x7B#8] 0 1).cur := ⟨⟨rfl, rfl, rfl, rfl⟩, by decide⟩

theorem witness_TextBytesBecomePending :
    (lexState (scanAt [0x61#8] 0 0)).scans 1 (scanAt [0x61#8] 0 0) (LexRun.start 1 0) ∧
      (scanAt [0x61#8] 0 0).cur + ([0x61#8] : Buffer).length ≤ (scanAt [0x61#8] 0 0).buf.length :=
  ⟨⟨rfl, rfl, rfl, rfl⟩, by decide⟩

theorem witness_TokenRecordsEndTheCommand :
    findRun (lexState (foundAt recordEnd)).lexers (lexState (foundAt recordEnd)).focus = some (1, foundAt recordEnd) ∧
      (foundAt recordEnd).run = some { LexRun.start 1 0 with result := some recordEnd } := by decide

end Sys2Proof.Tests
end

section
/-! SUPPORT. What the decoder reads in each place: the kinds of instruction that stand there, and that it stays inside the bytes that
stand there. -/

namespace Sys2Proof

/-! ### The places instructions are read from -/

/-- The places of `Code`, without what stands there. -/
inductive Place where
  | command | header | control | body | record | rtf

/-- The place of a code. -/
def Code.place : Code → Place
  | .command _ => .command
  | .header _ => .header
  | .control _ => .control
  | .body _ _ _ => .body
  | .record _ => .record
  | .rtf _ => .rtf

/-- The place an instruction is read from. -/
def Instr.place : Instr → Place
  | .hdrLZFu _ _ _ | .hdrMELA _ _ _ | .hdrOther _ _ _ _ => .header
  | .ctrl _ => .control
  | .lit _ | .ref _ _ | .eos _ _ => .body
  | .crc32 _ _ | .compress _ _ | .decompress _ | .parseHeader _ | .lexOpen _ | .lexNext _ | .lexSkip _ _ | .lexClose _ => .command
  | .tokenEnd | .tokenGroup _ | .tokenControlSymbol _ | .tokenControlWord _ _ | .tokenText _ => .record
  | .rtfOpen | .rtfClose | .rtfControlSymbol _ | .rtfControlWord _ _ _ _ | .rtfLineBreak _ | .rtfText _ => .rtf

/-- The places of the decompressor: a container and its payload. -/
def Place.ofStream : Place → Bool
  | .header | .control | .body => true
  | .command | .record | .rtf => false

/-- The places of a lexer: its result and its text buffer. -/
def Place.ofScan : Place → Bool
  | .record | .rtf => true
  | .command | .header | .control | .body => false

/-! ### What each decoder reads -/

theorem u32Operand_map_place {arg : Option Nat} {dflt : Option Word32} {f : Word32 → Instr} {i : Instr}
    (h : (u32Operand arg dflt).map f = .ok i) : ∃ w, i = f w := by
  cases hu : u32Operand arg dflt with
  | error e => rw [hu] at h; cases h
  | ok w => rw [hu] at h; cases h; exact ⟨w, rfl⟩

theorem decodeCommand_place {c : HostCommand} {i : Instr} (h : decodeCommand c = .ok i) : i.place = .command := by
  unfold decodeCommand at h
  split at h
  case h_1 | h_2 => obtain ⟨w, rfl⟩ := u32Operand_map_place h; rfl
  all_goals cases h
  all_goals rfl

theorem headerOf_place (cs rs ct crc : Word32) : (headerOf cs rs ct crc).place = .header := by
  unfold headerOf
  repeat' split
  all_goals rfl

theorem decodeHeader_ok {bs rest : Buffer} {i : Instr} (h : decodeHeader bs = .ok (i, rest)) :
    (∃ cs rs ct crc, i = headerOf cs rs ct crc) ∧ bs.length = hdrLen + rest.length := by
  unfold decodeHeader at h
  split at h
  · cases h; exact ⟨⟨_, _, _, _, rfl⟩, by simp only [List.length_cons, hdrLen]; omega⟩
  · cases h

theorem decodeControl_ok {bs rest : Buffer} {i : Instr} (h : decodeControl bs = .ok (i, rest)) :
    ∃ k, i = .ctrl k ∧ bs = k :: rest := by
  cases bs with
  | nil => cases h
  | cons k t => cases h; exact ⟨k, rfl, rfl⟩

/-- A token body: a literal behind a control bit of 0; behind a 1 a reference, or the EOS where the offset is the cursor (R75, R79). -/
theorem decodeBody_ok {bit : Bool} {w : Off12} {bs rest : Buffer} {i : Instr} (h : decodeBody bit w bs = .ok (i, rest)) :
    (bit = false ∧ (∃ b, i = .lit b) ∧ bs.length = 1 + rest.length) ∨
      (bit = true ∧ ((∃ off code, off ≠ w ∧ i = .ref off code) ∨ ∃ code, i = .eos w code) ∧ bs.length = 2 + rest.length) := by
  unfold decodeBody at h
  split at h
  · cases h
  · split at h
    · cases h; exact .inl ⟨rfl, ⟨_, rfl⟩, by simp only [List.length_cons]; omega⟩
    · cases h
    · rename_i b1 rest'
      dsimp only at h
      split at h
      · rename_i hoff
        cases h
        exact .inr ⟨rfl, .inr ⟨_, by rw [hoff]⟩, by simp only [List.length_cons]; omega⟩
      · rename_i hoff
        cases h
        exact .inr ⟨rfl, .inl ⟨_, _, hoff, rfl⟩, by simp only [List.length_cons]; omega⟩

theorem decodeRecord_place {r : Record} {i : Instr} (h : decodeRecord r = .ok i) : i.place = .record := by
  unfold decodeRecord at h
  split at h
  all_goals cases h
  all_goals rfl

theorem decodeRecord_of_kind {r : Record} (h : r.kind ≤ 4) : ∃ i, decodeRecord r = .ok i := by
  unfold decodeRecord
  interval_cases r.kind
  all_goals exact ⟨_, rfl⟩

theorem takeSign_length (bs : Buffer) : (takeSign bs).1.toNat + (takeSign bs).2.length = bs.length := by
  unfold takeSign
  split
  · split
    · simp only [Bool.toNat_true, List.length_cons]; omega
    · simp
  · rfl

theorem takeSpace_length (bs : Buffer) : (takeSpace bs).1.toNat + (takeSpace bs).2.length = bs.length := by
  unfold takeSpace
  split
  · split
    · simp only [Bool.toNat_true, List.length_cons]; omega
    · simp
  · rfl

theorem length_takeWhile_add_length_dropWhile (p : Byte → Bool) (bs : Buffer) :
    (bs.takeWhile p).length + (bs.dropWhile p).length = bs.length := by
  rw [← List.length_append, List.takeWhile_append_dropWhile]

/-- What the decoder answers on RTF text stays inside the text: an element takes a byte or more, its bytes and what follows make up the
whole, and an error's bytes are among those that stand there (R54, R198). `n` bytes, the backslash, stand before the text. -/
def RtfWithin (n : Nat) (bs : Buffer) : Except Reject (Instr × Buffer) → Prop
  | .ok (i, rest) => i.place = .rtf ∧ 0 < i.byteLength ∧ i.byteLength + rest.length = n + bs.length
  | .error e => e = .endOfBuffer ∨ ∃ sub consumed, e = .lexical sub consumed ∧ consumed ≤ n + bs.length

theorem decodeControlWord_within (bs : Buffer) : RtfWithin 1 bs (decodeControlWord bs) := by
  have hkw := length_takeWhile_add_length_dropWhile isLetter bs
  have hsign := takeSign_length (bs.dropWhile isLetter)
  have hdigits := length_takeWhile_add_length_dropWhile isDigit (takeSign (bs.dropWhile isLetter)).2
  have hspace := takeSpace_length ((takeSign (bs.dropWhile isLetter)).2.dropWhile isDigit)
  unfold decodeControlWord
  dsimp only
  split
  · exact .inr ⟨_, _, rfl, by omega⟩
  · split
    · exact .inr ⟨_, _, rfl, by omega⟩
    · split
      · exact .inr ⟨_, _, rfl, by omega⟩
      · exact ⟨rfl, by simp only [Instr.byteLength]; omega, by simp only [Instr.byteLength]; omega⟩

theorem decodeControlToken_within (bs : Buffer) : RtfWithin 1 bs (decodeControlToken bs) := by
  cases bs with
  | nil => exact .inr ⟨_, _, rfl, Nat.le_refl _⟩
  | cons c rest =>
    simp only [decodeControlToken]
    split
    · exact decodeControlWord_within (c :: rest)
    · exact ⟨rfl, by simp [Instr.byteLength], by simp only [Instr.byteLength, List.length_cons]; omega⟩

theorem RtfWithin.cons {c : Byte} {bs : Buffer} {a : Except Reject (Instr × Buffer)} (h : RtfWithin 1 bs a) :
    RtfWithin 0 (c :: bs) a := by
  have hn : 1 + bs.length = 0 + (c :: bs).length := by simp only [List.length_cons]; omega
  cases a with
  | error e => simpa only [RtfWithin, hn] using h
  | ok p => simpa only [RtfWithin, hn] using h

theorem decodeRtf_within (bs : Buffer) : RtfWithin 0 bs (decodeRtf bs) := by
  cases bs with
  | nil => exact .inl rfl
  | cons c rest =>
    have hone : 1 + rest.length = 0 + (c :: rest).length := by simp only [List.length_cons]; omega
    simp only [decodeRtf]
    split
    · exact ⟨rfl, Nat.one_pos, hone⟩
    · split
      · exact ⟨rfl, Nat.one_pos, hone⟩
      · split
        · exact (decodeControlToken_within rest).cons
        · split
          · exact ⟨rfl, Nat.one_pos, hone⟩
          · have htext := length_takeWhile_add_length_dropWhile isOrdinary rest
            exact ⟨rfl, by simp [Instr.byteLength], by simp only [Instr.byteLength, List.length_cons]; omega⟩

theorem decodeRtf_ok {bs rest : Buffer} {i : Instr} (h : decodeRtf bs = .ok (i, rest)) :
    i.place = .rtf ∧ 0 < i.byteLength ∧ i.byteLength + rest.length = bs.length := by
  have hw := decodeRtf_within bs
  rw [h] at hw
  simpa [RtfWithin] using hw

theorem decodeRtf_error {bs : Buffer} {e : Reject} (h : decodeRtf bs = .error e) :
    e = .endOfBuffer ∨ ∃ sub consumed, e = .lexical sub consumed ∧ consumed ≤ bs.length := by
  have hw := decodeRtf_within bs
  rw [h] at hw
  simpa [RtfWithin] using hw

theorem exceptMap_pair_ok {a : Except Reject Instr} {i : Instr} {rest : Buffer}
    (h : a.map (fun i => (i, ([] : Buffer))) = .ok (i, rest)) : a = .ok i := by
  cases a with
  | error e => cases h
  | ok j => cases h; rfl

/-- The decoder reads an instruction of the place it stands in. -/
theorem decode_place {c : Code} {i : Instr} {rest : Buffer} (h : decode c = .ok (i, rest)) : i.place = c.place := by
  cases c with
  | command c => exact decodeCommand_place (exceptMap_pair_ok h)
  | header bs =>
    obtain ⟨⟨cs, rs, ct, crc, rfl⟩, -⟩ := decodeHeader_ok h
    exact headerOf_place ..
  | control bs => obtain ⟨k, rfl, -⟩ := decodeControl_ok h; rfl
  | body bit w bs =>
    rcases decodeBody_ok h with ⟨-, ⟨b, rfl⟩, -⟩ | ⟨-, ⟨off, code, -, rfl⟩ | ⟨code, rfl⟩, -⟩
    all_goals rfl
  | record r => exact decodeRecord_place (exceptMap_pair_ok h)
  | rtf bs => exact (decodeRtf_ok h).1

end Sys2Proof
end

section
/-! SUPPORT. The compressor's steps from sound registers (43_compressor.md): the dictionary and the search keep their bounds, no step
faults, and each comes nearer to the response. -/

namespace Sys2Proof.Machine

theorem written_iff {α : Type} {r : Option α} {check : α → Bool} :
    written r check = true ↔ ∃ v, r = some v ∧ check v = true := by
  cases r <;> simp [written]

/-! ### Dictionary -/

theorem Dict.sound_iff {d : Dict} :
    d.sound = true ↔ d.ring.wf = true ∧ (∀ c ∈ d.ring, c.1 < dictSize) ∧ d.fill.toNat ≤ dictSize ∧
      (d.fill.toNat = dictSize ∨ d.wcur.toNat = d.fill.toNat) := by
  simp [Dict.sound, ringFull, and_assoc]

theorem Dict.new_sound : Dict.new.sound = true :=
  Dict.sound_iff.mpr ⟨Dict.new_wf, by simpa using Dict.new_addresses, by decide, .inr (by decide)⟩

/-- `DictPush` keeps R23: while the ring is not full, cursor and fill move on together. -/
theorem Dict.push_sound {d : Dict} (h : d.sound = true) (b : Byte) : (d.push b).sound = true := by
  obtain ⟨hwf, hcells, hfill, hcur⟩ := Dict.sound_iff.mp h
  refine Dict.sound_iff.mpr ⟨Dict.push_wf hwf b, fun c hc => ?_, ?_, ?_⟩
  · rcases Memory.mem_write hc with hc | rfl
    · exact hcells c hc
    · exact d.wcur.isLt
  · simp only [Dict.push_fill, dictSize] at hfill ⊢
    split <;> bv_omega
  · simp only [Dict.push_fill, Dict.push_wcur, dictSize] at hcur ⊢
    split <;> bv_omega

theorem Dict.pushAll_sound {d : Dict} (h : d.sound = true) (bs : Buffer) : (d.pushAll bs).sound = true := by
  induction bs generalizing d with
  | nil => exact h
  | cons b bs ih => exact ih (Dict.push_sound h b)

/-! ### Search -/

theorem matchFrom_sound {o : Off12} {best : Nat} {bs : Buffer} {m : Nat} {d : Dict} (h : d.sound = true) :
    (matchFrom o best bs m d).1 ≤ m + bs.length ∧ (matchFrom o best bs m d).2.sound = true := by
  induction bs generalizing m d with
  | nil => exact ⟨Nat.le_refl _, h⟩
  | cons b bs ih =>
    simp only [matchFrom]
    split
    · have hd : (if best < m + 1 then d.push b else d).sound = true := by
        split
        · exact Dict.push_sound h b
        · exact h
      obtain ⟨hlen, hs⟩ := ih (m := m + 1) hd
      exact ⟨by simp only [List.length_cons]; omega, hs⟩
    · exact ⟨Nat.le_add_right .., h⟩

/-- What every stage of a search keeps: a sound dictionary, and a best match within the upcoming bytes. -/
def Search.Within (upcoming : Buffer) (s : Search) : Prop := s.dict.sound = true ∧ s.best ≤ upcoming.length

theorem tryCandidate_within {upcoming : Buffer} {s : Search} (h : s.Within upcoming) (o : Off12) :
    (tryCandidate upcoming o s).Within upcoming := by
  have hm := matchFrom_sound (o := o) (best := s.best) (bs := upcoming) (m := 0) h.1
  simp only [tryCandidate]
  split
  · exact ⟨hm.2, by simpa using hm.1⟩
  · exact ⟨hm.2, h.2⟩

theorem searchFrom_within {w0 : Off12} {fill0 : BitVec 13} {upcoming : Buffer} {left k : Nat} {s : Search}
    (h : s.Within upcoming) : (searchFrom w0 fill0 upcoming left k s).Within upcoming := by
  induction left generalizing k s with
  | zero => exact h
  | succ left ih =>
    simp only [searchFrom]
    split
    · exact ih (tryCandidate_within h _)
    · exact ih h

theorem endSearch_within {upcoming : Buffer} {s : Search} (h : s.Within upcoming) :
    (endSearch upcoming s).Within upcoming := by
  unfold endSearch
  split
  · exact ⟨Dict.pushAll_sound h.1 _, h.2⟩
  · exact h

theorem search_within {d : Dict} (h : d.sound = true) (upcoming : Buffer) :
    (endSearch upcoming (searchAll d upcoming)).Within upcoming :=
  endSearch_within (searchFrom_within ⟨h, Nat.zero_le _⟩)

/-! ### Ticks -/

/-- A step of an engine that has its place and keeps to its registers: the registers it leaves in progress satisfy `P`, and those it
ends with satisfy `Q`. -/
def Tick.Safe {σ : Type} (P Q : σ → Prop) : Tick σ → Prop
  | .run e => P e
  | .done e _ => Q e
  | .fault _ => False
  | .outOfPlace => False

section
variable {σ : Type} {P Q : σ → Prop}
@[simp] theorem Tick.safe_run {e : σ} : (Tick.run e).Safe P Q ↔ P e := Iff.rfl
@[simp] theorem Tick.safe_done {e : σ} {r : Response} : (Tick.done e r).Safe P Q ↔ Q e := Iff.rfl
end

/-! ### Compressor -/

theorem Comp.frameSound_iff {c : Comp} :
    c.frameSound = true ↔ (∃ d, c.dict = some d ∧ d.sound = true) ∧ hdrLen ≤ c.out.length ∧ c.ip ≤ c.inp.length := by
  simp [Comp.frameSound, written_iff, and_assoc]

theorem Comp.runSound_iff {c : Comp} :
    c.runSound = true ↔ (∃ k, c.ctrl = some k) ∧ (∃ p, c.ctrlPos = some p ∧ p < c.out.length) ∧
      (∃ n, c.slot = some n ∧ n < runSlots) ∧ c.finished = false := by
  simp [Comp.runSound, written_iff, and_assoc]

/-- A bound on the steps a compressor still takes, this one included: a slot's search and emission and a run's start for each byte
left, and the EOS, FINALIZE and DONE. -/
def Comp.stepsLeft (c : Comp) : Nat :=
  match c.phase with
  | .idle => 0
  | .check => 3 * c.inp.length + 6
  | .runStart => 3 * (c.inp.length - c.ip) + 5
  | .search => 3 * (c.inp.length - c.ip) + 4
  | .emit => 3 * (c.inp.length - c.ip) + 3
  | .finalize => 2
  | .done => 1

/-- What a compressor's step leaves: sound registers, and fewer steps to go. -/
def Comp.Progress (c c' : Comp) : Prop := c'.sound = true ∧ c'.stepsLeft < c.stepsLeft

theorem Comp.check_safe {c : Comp} (cfg : Config) (hp : c.phase = .check) :
    (c.check cfg).Safe c.Progress (fun _ => True) := by
  unfold Comp.check
  split
  · trivial
  · split
    · trivial
    · split
      · split <;> trivial
      · simp [Comp.Progress, Comp.sound, Comp.frameSound_iff, Comp.stepsLeft, hp, Dict.new_sound, headerPlaceholder]

theorem Comp.beginRun_safe {c : Comp} (hp : c.phase = .runStart) (h : c.sound = true) :
    c.beginRun.Safe c.Progress (fun _ => True) := by
  simp only [Comp.sound, hp, Bool.and_eq_true, Bool.not_eq_true', Comp.frameSound_iff] at h
  obtain ⟨⟨hd, hout, hip⟩, hfin⟩ := h
  simp only [Comp.beginRun, Tick.safe_run, Comp.Progress, Comp.sound, Comp.stepsLeft, hp, Bool.and_eq_true, Comp.frameSound_iff,
    Comp.runSound_iff, List.length_append]
  refine ⟨⟨⟨hd, by omega, hip⟩, ⟨_, rfl⟩, ⟨_, rfl, by simp⟩, ⟨_, rfl, by decide⟩, hfin⟩, by omega⟩

theorem Comp.search_best {c : Comp} {d : Dict} (hd : d.sound = true) (hip : c.ip ≤ c.inp.length) :
    ∃ best, (c.search d).best = some best ∧ best ≤ maxMatch ∧ c.ip + best ≤ c.inp.length := by
  refine ⟨_, rfl, ?_⟩
  have h := (search_within hd ((c.inp.drop c.ip).take (min maxMatch (c.inp.length - c.ip)))).2
  simp only [List.length_take, List.length_drop] at h
  omega

theorem Comp.searchStep_safe {c : Comp} (hp : c.phase = .search) (h : c.sound = true) :
    c.searchStep.Safe c.Progress (fun _ => True) := by
  simp only [Comp.sound, hp, Bool.and_eq_true, Comp.frameSound_iff] at h
  obtain ⟨⟨⟨d, hd, hds⟩, hout, hip⟩, hrun⟩ := h
  simp only [Comp.searchStep, hd]
  split
  · rename_i hend
    simp only [Tick.safe_run, Comp.Progress, Comp.sound, Comp.stepsLeft, hp, Bool.and_eq_true, Bool.or_eq_true, beq_iff_eq,
      Comp.frameSound_iff]
    exact ⟨⟨⟨⟨⟨d, rfl, hds⟩, hout, hip⟩, hrun⟩, .inl hend⟩, by omega⟩
  · obtain ⟨best, hbest, hmax, hin⟩ := Comp.search_best hds hip
    simp only [Tick.safe_run, Comp.Progress, Comp.sound, Comp.stepsLeft, hp, Bool.and_eq_true, Bool.or_eq_true, beq_iff_eq,
      Comp.frameSound_iff, written_iff, decide_eq_true_eq]
    refine ⟨⟨⟨⟨⟨_, rfl, (search_within hds _).1⟩, hout, hip⟩, hrun⟩, .inr ⟨⟨best, hbest, hmax, hin⟩,
      ⟨_, rfl, trivial⟩⟩⟩, ?_⟩
    simp only [Comp.search]; omega

/-- The token of a slot: it keeps the frame and appends to `OUT`; it is the EOS, which finishes, or it consumes input. -/
theorem Comp.emitToken_ok {c : Comp} {d : Dict} {ctrl : Byte} {slot : Nat} (hip : c.ip ≤ c.inp.length)
    (hfin : c.finished = false)
    (hbest : c.ip = c.inp.length ∨
      (∃ best, c.best = some best ∧ best ≤ maxMatch ∧ c.ip + best ≤ c.inp.length) ∧ ∃ off, c.bestOff = some off)
    (hctrl : c.ctrl = some ctrl) :
    ∃ c', c.emitToken d ctrl slot = .ok c' ∧ c'.dict = c.dict ∧ c'.inp = c.inp ∧ c'.ctrlPos = c.ctrlPos ∧
      (∃ k, c'.ctrl = some k) ∧ c.out.length ≤ c'.out.length ∧ c'.ip ≤ c'.inp.length ∧
      (c'.finished = true ∨ c'.finished = false ∧ c.ip < c'.ip) := by
  unfold Comp.emitToken
  split
  · exact ⟨_, rfl, rfl, rfl, rfl, ⟨_, rfl⟩, by simp [Comp.emitEos], hip, .inl rfl⟩
  · rename_i hne
    obtain ⟨⟨best, hb, hmax, hin⟩, off, ho⟩ := hbest.resolve_left hne
    simp only [hb, ho]
    split
    · have hlt : c.ip < c.inp.length := Nat.lt_of_le_of_ne hip hne
      simp only [List.getElem?_eq_getElem hlt]
      exact ⟨_, rfl, rfl, rfl, rfl, ⟨_, hctrl⟩, by simp [Comp.emitLiteral], hlt, .inr ⟨hfin, Nat.lt_succ_self _⟩⟩
    · rename_i hshort
      have hpos : 0 < best := Nat.lt_of_lt_of_le (by decide : 0 < minMatch) (Nat.le_of_not_lt hshort)
      exact ⟨_, rfl, rfl, rfl, rfl, ⟨_, rfl⟩, by simp [Comp.emitReference], hin, .inr ⟨hfin, Nat.lt_add_of_pos_right hpos⟩⟩

theorem Comp.emit_safe {c : Comp} (hp : c.phase = .emit) (h : c.sound = true) :
    c.emit.Safe c.Progress (fun _ => True) := by
  simp only [Comp.sound, hp, Bool.and_eq_true, Bool.or_eq_true, beq_iff_eq, Comp.frameSound_iff, Comp.runSound_iff, written_iff,
    decide_eq_true_eq, and_true] at h
  obtain ⟨⟨⟨⟨d, hd, hds⟩, hout, hip⟩, ⟨ctrl, hctrl⟩, ⟨pos, hpos, hposlt⟩, ⟨slot, hslot, hslotlt⟩, hfin⟩, hbest⟩ := h
  obtain ⟨c', hc', hdict, hinp, hctrlPos, ⟨k, hk⟩, hgrow, hip', hcase⟩ :=
    Comp.emitToken_ok (d := d) (slot := slot) hip hfin hbest hctrl
  rw [hd] at hdict
  rw [hpos] at hctrlPos
  have hlen : c'.inp.length = c.inp.length := by rw [hinp]
  simp only [Comp.emit, hd, hctrl, hslot, hc']
  split
  · rename_i hnext
    simp only [Tick.safe_run, Comp.Progress, Comp.sound, Comp.stepsLeft, hp, Bool.and_eq_true, Comp.frameSound_iff,
      Comp.runSound_iff]
    have hcons := hcase.resolve_left (by simp [hnext.2])
    exact ⟨⟨⟨⟨d, hdict, hds⟩, by omega, hip'⟩, ⟨k, hk⟩, ⟨pos, hctrlPos, by omega⟩, ⟨_, rfl, hnext.1⟩, hnext.2⟩, by omega⟩
  · have hpos' : pos < c'.out.length := by omega
    simp only [Comp.endRun, hctrlPos, hk, hpos', if_true, Tick.safe_run, Comp.Progress]
    rcases hcase with hf | ⟨hf, hcons⟩
    · simp only [hf, if_true, Comp.sound, Comp.stepsLeft, hp, Bool.and_eq_true, Comp.frameSound_iff, List.length_set]
      exact ⟨⟨⟨⟨d, hdict, hds⟩, by omega, hip'⟩, trivial⟩, by omega⟩
    · simp only [hf, Bool.false_eq_true, if_false, Comp.sound, Comp.stepsLeft, hp, Bool.and_eq_true, Comp.frameSound_iff,
        List.length_set]
      exact ⟨⟨⟨⟨d, hdict, hds⟩, by omega, hip'⟩, rfl⟩, by omega⟩

theorem Comp.finalize_safe {c : Comp} (cfg : Config) (hp : c.phase = .finalize) (h : c.sound = true) :
    (c.finalize cfg).Safe c.Progress (fun _ => True) := by
  simp only [Comp.sound, hp, Bool.and_eq_true, Comp.frameSound_iff] at h
  obtain ⟨⟨-, hout, -⟩, -⟩ := h
  simp only [Comp.finalize, Nat.not_lt.mpr hout, if_false]
  split
  · trivial
  · simp [Comp.Progress, Comp.sound, Comp.stepsLeft, hp]

/-- A step of a sound compressor reads what is written, stays inside its buffers and comes nearer to its response (R25, R34, R54). -/
theorem Comp.tick_safe {c : Comp} (cfg : Config) (h : c.sound = true) : (c.tick cfg).Safe c.Progress (fun _ => True) := by
  unfold Comp.tick
  split
  case h_1 hp => simp [Comp.sound, hp] at h
  case h_2 hp => exact Comp.check_safe cfg hp
  case h_3 hp => exact Comp.beginRun_safe hp h
  case h_4 hp => exact Comp.searchStep_safe hp h
  case h_5 hp => exact Comp.emit_safe hp h
  case h_6 hp => exact Comp.finalize_safe cfg hp h
  case h_7 => trivial

theorem Comp.runAll_ok {cfg : Config} {fuel : Nat} {c : Comp} (h : c.sound = true) (hf : c.stepsLeft < fuel) :
    ∃ r, Comp.runAll cfg fuel c = .ok r := by
  induction fuel generalizing c with
  | zero => omega
  | succ fuel ih =>
    have ht := Comp.tick_safe cfg h
    simp only [Comp.runAll]
    cases hk : c.tick cfg with
    | run c' =>
      rw [hk] at ht
      exact ih ht.1 (Nat.lt_of_lt_of_le ht.2 (Nat.le_of_lt_succ hf))
    | done c' r => exact ⟨r, rfl⟩
    | fault f => rw [hk] at ht; exact ht.elim
    | outOfPlace => rw [hk] at ht; exact ht.elim

/-- Every `COMPRESS` ends with a response (R148). -/
theorem compressResponse_ok (cfg : Config) (mode : Word32) (data : Buffer) : ∃ r, compressResponse cfg mode data = .ok r :=
  Comp.runAll_ok rfl (by simp only [Comp.stepsLeft, Comp.start, Comp.bound]; omega)

end Sys2Proof.Machine
end

section
/-! SUPPORT. The decompressor's steps from sound registers (44_decompressor.md): no step faults, and each comes nearer to the
response. -/

namespace Sys2Proof.Machine

/-! ### Decompressor -/

theorem Dec.streamSound_iff {d : Dec} :
    d.streamSound = true ↔ (∃ ip, d.ip = some ip ∧ hdrLen ≤ ip ∧ ip ≤ d.inp.length) ∧
      (∃ dict, d.dict = some dict ∧ dict.sound = true) ∧ ∃ h, d.hdr = some h ∧ d.out.length ≤ h.rawSize.toNat := by
  simp [Dec.streamSound, written_iff, and_assoc]

/-- The payload bytes not yet read. -/
def Dec.unread (d : Dec) : Nat := d.inp.length - d.ip.getD 0

/-- A bound on the steps a decompressor still takes, this one included: each step of the token loop reads a byte, but for the end of a
copy, whose reference read two (R175). -/
def Dec.stepsLeft (d : Dec) : Nat :=
  match d.phase with
  | .idle => 0
  | .header => d.inp.length + 5
  | .ctrl => d.unread + 4
  | .token => d.unread + 4
  | .copy => d.unread + 5
  | .trail => 3
  | .check => 2
  | .done => 1

/-- What a decompressor's step leaves: sound registers, and fewer steps to go. -/
def Dec.Progress (d d' : Dec) : Prop := d'.sound = true ∧ d'.stepsLeft < d.stepsLeft

theorem Dec.nextSlot_sound {d : Dec} {bit : Nat} (hs : d.streamSound = true) (hc : ∃ k, d.ctrl = some k) :
    (d.nextSlot bit).sound = true := by
  obtain ⟨k, hk⟩ := hc
  unfold Dec.nextSlot
  split
  · rename_i hb
    simp only [Dec.sound, Bool.and_eq_true, written_iff]
    exact ⟨⟨hs, ⟨k, hk, trivial⟩⟩, ⟨_, rfl, decide_eq_true hb⟩⟩
  · exact hs

theorem Dec.nextSlot_stepsLeft (d : Dec) (bit : Nat) : (d.nextSlot bit).stepsLeft = d.unread + 4 := by
  unfold Dec.nextSlot
  split <;> rfl

/-! #### Headers -/

theorem Dec.headerLZFu_safe {d : Dec} (cfg : Config) (cs rs c : Word32) (hp : d.phase = .header) (hlen : hdrLen ≤ d.inp.length) :
    (d.headerLZFu cfg cs rs c).Safe d.Progress (fun _ => True) := by
  simp only [Dec.headerLZFu, hp, ne_eq, not_true_eq_false, if_false]
  split
  · trivial
  · simp only [Dec.setUp]
    split
    · trivial
    · refine ⟨Dec.streamSound_iff.mpr ⟨⟨_, rfl, Nat.le_refl _, hlen⟩, ⟨_, rfl, Dict.new_sound⟩, ⟨_, rfl, Nat.zero_le _⟩⟩, ?_⟩
      simp only [Dec.stepsLeft, hp, Dec.unread, Dec.setHeader]
      omega

theorem Dec.headerMELA_safe {d : Dec} (cs rs c : Word32) (hp : d.phase = .header) :
    (d.headerMELA cs rs c).Safe d.Progress (fun _ => True) := by
  simp only [Dec.headerMELA, hp, ne_eq, not_true_eq_false, if_false]
  split
  · trivial
  · refine ⟨rfl, ?_⟩
    simp only [Dec.stepsLeft, hp]
    omega

theorem Dec.headerOf_safe {d : Dec} (cfg : Config) (cs rs ct c : Word32) (hp : d.phase = .header) (hlen : hdrLen ≤ d.inp.length) :
    (d.apply cfg (headerOf cs rs ct c)).Safe d.Progress (fun _ => True) := by
  unfold headerOf
  split
  · exact Dec.headerLZFu_safe cfg cs rs c hp hlen
  · split
    · exact Dec.headerMELA_safe cs rs c hp
    · simp [Dec.apply, Dec.headerOther, hp]

/-! #### The token loop -/

theorem Dec.control_safe {d : Dec} {ip : Nat} (k : Byte) (hp : d.phase = .ctrl) (h : d.sound = true) (hip : d.ip = some ip)
    (hin : ip + 1 ≤ d.inp.length) : (d.control k).Safe d.Progress (fun _ => True) := by
  simp only [Dec.sound, hp, Dec.streamSound_iff, hip, Option.some.injEq, exists_eq_left'] at h
  obtain ⟨⟨hlo, -⟩, hdict, hhdr⟩ := h
  simp only [Dec.control, hp, hip, Nat.not_lt.mpr hin, ne_eq, not_true_eq_false, if_false, Tick.safe_run, Dec.Progress]
  constructor
  · simp only [Dec.sound, Bool.and_eq_true, Dec.streamSound_iff, written_iff]
    exact ⟨⟨⟨⟨_, rfl, Nat.le_add_right_of_le hlo, hin⟩, hdict, hhdr⟩, ⟨_, rfl, trivial⟩⟩, ⟨_, rfl, rfl⟩⟩
  · simp only [Dec.stepsLeft, hp, Dec.unread, Dec.consume, hip, Option.getD_some, List.length_singleton]
    omega

/-- What a token finds in a sound decompressor (R160): its registers written, and the declared size not yet passed. -/
structure Dec.TokenReady (d : Dec) (t : TokenRegs) (h : Header) : Prop where
  phase : d.phase = .token
  regs : d.tokenRegs = .ok t
  ip : d.ip = some t.ip
  ctrl : d.ctrl = some t.ctrl
  bit : d.bit = some t.bit
  hdr : d.hdr = some h
  raw : t.raw = h.rawSize.toNat
  ipLow : hdrLen ≤ t.ip
  bitLow : t.bit < runSlots
  dict : t.dict.sound = true
  out : d.out.length ≤ t.raw

theorem Dec.tokenReady_of_sound {d : Dec} (hp : d.phase = .token) (hs : d.sound = true) :
    ∃ t h, d.TokenReady t h ∧ d.next = .read (.body (ctrlBit t.ctrl t.bit) t.dict.wcur (d.inp.drop t.ip)) := by
  simp only [Dec.sound, hp, Bool.and_eq_true, Dec.streamSound_iff, written_iff, decide_eq_true_eq] at hs
  obtain ⟨⟨⟨⟨ip, hip, hlo, -⟩, ⟨dict, hdict, hds⟩, ⟨h, hh, hout⟩⟩, ⟨ctrl, hctrl, -⟩⟩, ⟨bit, hbit, hlt⟩⟩ := hs
  refine ⟨_, h, ⟨hp, Dec.tokenRegs_eq hip hctrl hbit hdict hh, hip, hctrl, hbit, hh, rfl, hlo, hlt, hds, hout⟩, ?_⟩
  simp only [Dec.next, hp, hip, hctrl, hbit, hdict]

theorem Dec.literal_safe {d : Dec} {t : TokenRegs} {h : Header} (b : Byte) (ht : d.TokenReady t h)
    (hbit : ctrlBit t.ctrl t.bit = false) (hin : t.ip + 1 ≤ d.inp.length) : (d.literal b).Safe d.Progress (fun _ => True) := by
  have hlow := ht.ipLow
  have hout := ht.out
  simp only [Dec.literal, ht.phase, ht.regs, hbit, Nat.not_lt.mpr hin, ne_eq, not_true_eq_false, Bool.false_eq_true, if_false]
  split
  · trivial
  · rename_i hroom
    simp only [Dec.consume] at hroom
    refine ⟨Dec.nextSlot_sound (Dec.streamSound_iff.mpr ⟨⟨_, rfl, ?_, ?_⟩, ⟨_, rfl, Dict.push_sound ht.dict b⟩, ⟨h, ht.hdr, ?_⟩⟩)
      ⟨_, ht.ctrl⟩, ?_⟩
    · exact Nat.le_add_right_of_le hlow
    · exact hin
    · simp only [Dec.consume, List.length_append, List.length_singleton, ← ht.raw]; omega
    · rw [Dec.nextSlot_stepsLeft]
      simp only [Dec.stepsLeft, ht.phase, Dec.unread, ht.ip, Dec.consume, Option.getD_some, List.length_singleton]
      omega

theorem Dec.reference_safe {d : Dec} {t : TokenRegs} {h : Header} {off : Off12} (code : BitVec 4) (ht : d.TokenReady t h)
    (hbit : ctrlBit t.ctrl t.bit = true) (hoff : off ≠ t.dict.wcur) (hin : t.ip + 2 ≤ d.inp.length) :
    (d.reference off code).Safe d.Progress (fun _ => True) := by
  have hlow := ht.ipLow
  have hout := ht.out
  simp only [Dec.reference, ht.phase, ht.regs, hbit, hoff, Nat.not_lt.mpr hin, ne_eq, not_true_eq_false, Bool.true_eq_false, or_self,
    if_false]
  split
  · trivial
  · rename_i dict out hcopy
    obtain ⟨bs, -, -, rfl, hraw⟩ := copyLoop_some hcopy
    refine ⟨?_, ?_⟩
    · simp only [Dec.sound, Bool.and_eq_true, Dec.streamSound_iff, written_iff, decide_eq_true_eq]
      exact ⟨⟨⟨⟨⟨⟨_, rfl, Nat.le_add_right_of_le hlow, hin⟩, ⟨_, rfl, Dict.pushAll_sound ht.dict bs⟩,
        ⟨h, ht.hdr, ht.raw ▸ hraw hout⟩⟩, ⟨_, ht.ctrl, trivial⟩⟩, ⟨_, ht.bit, ht.bitLow⟩⟩, rfl⟩, by simp [Dec.readBody]⟩
    · simp only [Dec.stepsLeft, ht.phase, Dec.unread, ht.ip, Dec.readBody, Dec.consume, Option.getD_some, List.length_cons,
        List.length_nil]
      omega

theorem Dec.endOfStream_safe {d : Dec} {t : TokenRegs} {h : Header} (code : BitVec 4) (ht : d.TokenReady t h)
    (hbit : ctrlBit t.ctrl t.bit = true) (hin : t.ip + 2 ≤ d.inp.length) :
    (d.endOfStream t.dict.wcur code).Safe d.Progress (fun _ => True) := by
  obtain ⟨-, -, -, hdict, -⟩ := Dec.tokenRegs_ok ht.regs
  simp only [Dec.endOfStream, ht.phase, ht.regs, hbit, Nat.not_lt.mpr hin, ne_eq, not_true_eq_false, Bool.true_eq_false, or_self,
    if_false, Tick.safe_run, Dec.Progress]
  refine ⟨?_, ?_⟩
  · simp only [Dec.sound, Bool.and_eq_true, Dec.streamSound_iff]
    exact ⟨⟨⟨_, rfl, Nat.le_add_right_of_le ht.ipLow, hin⟩, ⟨_, hdict, ht.dict⟩, ⟨h, ht.hdr, ht.raw ▸ ht.out⟩⟩, trivial⟩
  · simp only [Dec.stepsLeft, ht.phase, Dec.unread]
    omega

theorem Dec.endCopy_safe {d : Dec} (hp : d.phase = .copy) (h : d.sound = true) : d.endCopy.Safe d.Progress (fun _ => True) := by
  simp only [Dec.sound, hp, Bool.and_eq_true, written_iff] at h
  obtain ⟨⟨⟨⟨hs, ⟨k, hk, -⟩⟩, ⟨bit, hbit, -⟩⟩, -⟩, -⟩ := h
  simp only [Dec.endCopy, hbit]
  refine ⟨Dec.nextSlot_sound hs ⟨k, hk⟩, ?_⟩
  rw [Dec.nextSlot_stepsLeft]
  simp only [Dec.stepsLeft, hp]
  omega

/-! #### After the EOS -/

theorem Dec.foldTrailing_safe {d : Dec} (hp : d.phase = .trail) (h : d.sound = true) :
    d.foldTrailing.Safe d.Progress (fun _ => True) := by
  simp only [Dec.sound, hp, Bool.and_eq_true, Dec.streamSound_iff] at h
  obtain ⟨⟨⟨ip, hip, hlo, hhi⟩, hdict, hhdr⟩, heos⟩ := h
  simp only [Dec.foldTrailing, hip, Tick.safe_run, Dec.Progress]
  refine ⟨?_, ?_⟩
  · simp only [Dec.sound, Bool.and_eq_true, Dec.streamSound_iff]
    exact ⟨⟨⟨_, rfl, by omega, by simp only [Dec.consume, List.length_drop]; omega⟩, hdict, hhdr⟩, heos⟩
  · simp [Dec.stepsLeft, hp]

theorem Dec.checks_safe {d : Dec} (hp : d.phase = .check) (h : d.sound = true) : d.checks.Safe d.Progress (fun _ => True) := by
  simp only [Dec.sound, hp] at h
  obtain ⟨-, -, ⟨hd, hhdr, -⟩⟩ := Dec.streamSound_iff.mp (Bool.and_eq_true _ _ ▸ h).1
  unfold Dec.checks
  split
  · rename_i hnone
    simp [hnone] at hhdr
  · split
    · trivial
    · split
      · trivial
      · refine ⟨?_, by simp [Dec.stepsLeft, hp]⟩
        simp only [Dec.sound, Bool.or_eq_true]
        exact .inr h

theorem Dec.handOver_safe {d : Dec} (hp : d.phase = .done) (h : d.sound = true) : d.handOver.Safe d.Progress (fun _ => True) := by
  simp only [Dec.sound, hp, Bool.or_eq_true, Bool.and_eq_true, Dec.streamSound_iff, written_iff] at h
  have hhdr : ∃ hd, d.hdr = some hd := by
    rcases h with ⟨hd, hhdr, -⟩ | ⟨⟨-, -, hd, hhdr, -⟩, -⟩
    all_goals exact ⟨hd, hhdr⟩
  obtain ⟨hd, hhdr⟩ := hhdr
  simp only [Dec.handOver, hhdr, Tick.safe_done]

/-! #### The engine -/

theorem Dec.tick_safe_of_read {d : Dec} {c : Code} {cfg : Config} (hn : d.next = .read c)
    (h : ∀ i rest, decode c = .ok (i, rest) → (d.apply cfg i).Safe d.Progress (fun _ => True)) :
    (d.tick cfg).Safe d.Progress (fun _ => True) := by
  simp only [Dec.tick, hn]
  cases hd : decode c with
  | error e => trivial
  | ok p => exact h p.1 p.2 hd

/-- A step of a sound decompressor reads what is written, stays inside its buffers and comes nearer to its response (R34, R54, R168,
R175). -/
theorem Dec.tick_safe {d : Dec} (cfg : Config) (h : d.sound = true) : (d.tick cfg).Safe d.Progress (fun _ => True) := by
  cases hp : d.phase with
  | idle => simp [Dec.sound, hp] at h
  | header =>
    refine Dec.tick_safe_of_read (c := .header d.inp) (by simp only [Dec.next, hp]) fun i rest hd => ?_
    obtain ⟨⟨cs, rs, ct, crc, rfl⟩, hlen⟩ := decodeHeader_ok hd
    exact Dec.headerOf_safe cfg cs rs ct crc hp (by omega)
  | ctrl =>
    have hs := h
    simp only [Dec.sound, hp] at hs
    obtain ⟨⟨ip, hip, -, -⟩, -, -⟩ := Dec.streamSound_iff.mp hs
    refine Dec.tick_safe_of_read (c := .control (d.inp.drop ip)) (by simp only [Dec.next, hp, hip]) fun i rest hd => ?_
    obtain ⟨k, rfl, hdrop⟩ := decodeControl_ok hd
    have hlen := congrArg List.length hdrop
    simp only [List.length_drop, List.length_cons] at hlen
    exact Dec.control_safe k hp h hip (by omega)
  | token =>
    obtain ⟨t, hd, ht, hn⟩ := Dec.tokenReady_of_sound hp h
    refine Dec.tick_safe_of_read hn fun i rest hdec => ?_
    rcases decodeBody_ok hdec with ⟨hbit, ⟨b, rfl⟩, hlen⟩ | ⟨hbit, ⟨off, code, hoff, rfl⟩ | ⟨code, rfl⟩, hlen⟩
    all_goals rw [List.length_drop] at hlen
    · exact Dec.literal_safe b ht hbit (by omega)
    · exact Dec.reference_safe code ht hbit hoff (by omega)
    · exact Dec.endOfStream_safe code ht hbit (by omega)
  | copy => simpa only [Dec.tick, Dec.next, Dec.inner, hp] using Dec.endCopy_safe hp h
  | trail => simpa only [Dec.tick, Dec.next, Dec.inner, hp] using Dec.foldTrailing_safe hp h
  | check => simpa only [Dec.tick, Dec.next, Dec.inner, hp] using Dec.checks_safe hp h
  | done => simpa only [Dec.tick, Dec.next, Dec.inner, hp] using Dec.handOver_safe hp h

theorem Dec.runAll_ok {cfg : Config} {fuel : Nat} {d : Dec} (h : d.sound = true) (hf : d.stepsLeft < fuel) :
    ∃ r, Dec.runAll cfg fuel d = .ok r := by
  induction fuel generalizing d with
  | zero => omega
  | succ fuel ih =>
    have ht := Dec.tick_safe cfg h
    simp only [Dec.runAll]
    cases hk : d.tick cfg with
    | run d' =>
      rw [hk] at ht
      exact ih ht.1 (Nat.lt_of_lt_of_le ht.2 (Nat.le_of_lt_succ hf))
    | done d' r => exact ⟨r, rfl⟩
    | fault f => rw [hk] at ht; exact ht.elim
    | outOfPlace => rw [hk] at ht; exact ht.elim

theorem Dec.runAll_start_ok (cfg : Config) (cmd : DCommand) (data : Buffer) :
    ∃ r, Dec.runAll cfg (Dec.bound data.length) (Dec.start cmd data) = .ok r :=
  Dec.runAll_ok rfl (by simp only [Dec.stepsLeft, Dec.start, Dec.bound]; omega)

end Sys2Proof.Machine
end

section
/-! SUPPORT. The lexer's steps from sound registers (45_lexer.md): no step faults, and each comes nearer to the response. -/

namespace Sys2Proof.Machine

/-! ### Lexer -/

theorem Lexer.sound_idle {l : Lexer} (hr : l.run = none) : l.sound = true ↔ l.cur ≤ l.buf.length := by
  simp [Lexer.sound, hr]

theorem Lexer.sound_scan {l : Lexer} {r : LexRun} (hr : l.run = some r) :
    l.sound = true ↔ l.cur ≤ l.buf.length ∧ r.tstart ≤ l.cur ∧ l.state = .ready ∧
      (r.result = none → r.lphase = .scan) ∧ ∀ rec, r.result = some rec → rec.kind ≤ 4 := by
  cases h : r.result <;> simp [Lexer.sound, LexRun.sound, hr, h, and_assoc]

theorem Lexer.cur_le_of_sound {l : Lexer} (h : l.sound = true) : l.cur ≤ l.buf.length := by
  simp only [Lexer.sound, Bool.and_eq_true, decide_eq_true_eq] at h
  exact h.1

/-- A bound on the steps a `LEX_NEXT` still takes, this one included: each element but the last consumes a byte (R196). -/
def Lexer.stepsLeft (l : Lexer) : Nat :=
  match l.run with
  | none => 0
  | some r => if r.result.isSome then 1 else l.buf.length - l.cur + 2

/-- What a lexer's step leaves while its `LEX_NEXT` goes on: a sound scan, and fewer steps to go. -/
def Lexer.Progress (l l' : Lexer) : Prop := l'.sound = true ∧ l'.run.isSome = true ∧ l'.stepsLeft < l.stepsLeft

/-- What a lexer's step leaves when it ends its `LEX_NEXT`. -/
def Lexer.Ended (l : Lexer) : Prop := l.sound = true ∧ l.run = none

/-- A lexer that reads RTF (R182): its scan `r` has found no token yet. -/
structure Lexer.Scanning (l : Lexer) (r : LexRun) : Prop where
  run : l.run = some r
  result : r.result = none
  lphase : r.lphase = .scan
  state : l.state = .ready
  tstart : r.tstart ≤ l.cur
  cur : l.cur ≤ l.buf.length

theorem Lexer.Scanning.stepsLeft {l : Lexer} {r : LexRun} (h : l.Scanning r) : l.stepsLeft = l.buf.length - l.cur + 2 := by
  simp [Lexer.stepsLeft, h.run, h.result]

theorem Lexer.Scanning.no_record {l : Lexer} {r : LexRun} (h : l.Scanning r) (rec : Record) : r.result = some rec → rec.kind ≤ 4 := by
  simp [h.result]

theorem Lexer.yield_progress {l l' : Lexer} {r r' : LexRun} {record : Record} (h : l.Scanning r) (hk : record.kind ≤ 4)
    (hcur : l'.cur ≤ l'.buf.length) (hstart : r'.tstart ≤ l'.cur) (hstate : l'.state = .ready) :
    l.Progress (l'.yield r' record) := by
  refine ⟨(Lexer.sound_scan (r := { r' with result := some record }) rfl).mpr
    ⟨hcur, hstart, hstate, nofun, fun _ hrec => Option.some.inj hrec ▸ hk⟩, rfl, ?_⟩
  rw [h.stepsLeft]
  simp [Lexer.stepsLeft, Lexer.yield]

theorem Lexer.flush_progress {l : Lexer} {r : LexRun} (h : l.Scanning r) : l.Progress (l.flush r) :=
  Lexer.yield_progress h (Nat.le_refl 4) h.cur h.tstart h.state

theorem Lexer.delimiter_safe {l : Lexer} {r : LexRun} {n : Nat} {effect : LexRun → Lexer} (h : l.Scanning r)
    (hn : l.cur + n ≤ l.buf.length) (he : l.Progress (effect r)) :
    (l.delimiter n effect).Safe l.Progress Lexer.Ended := by
  simp only [Lexer.delimiter, h.run, h.result, h.lphase, Option.isSome_none, Bool.false_eq_true, ne_eq, not_true_eq_false, or_self,
    if_false, Nat.not_lt.mpr hn]
  split
  · exact Lexer.flush_progress h
  · exact he

theorem Lexer.group_safe {l : Lexer} {r : LexRun} (isOpen : Bool) (h : l.Scanning r) (hn : l.cur + 1 ≤ l.buf.length) :
    (l.group isOpen).Safe l.Progress Lexer.Ended :=
  Lexer.delimiter_safe h hn (Lexer.yield_progress h (by decide : 1 ≤ 4) hn (Nat.le_add_right_of_le h.tstart) h.state)

theorem Lexer.lineBreak_safe {l : Lexer} {r : LexRun} (h : l.Scanning r) (hn : l.cur + 1 ≤ l.buf.length) :
    l.lineBreak.Safe l.Progress Lexer.Ended := by
  refine Lexer.delimiter_safe h hn ⟨(Lexer.sound_scan (r := { r with tstart := l.cur + 1 }) rfl).mpr
    ⟨hn, Nat.le_refl _, h.state, fun _ => h.lphase, h.no_record⟩, rfl, ?_⟩
  rw [h.stepsLeft]
  simp only [Lexer.stepsLeft, h.result, Option.isSome_none, Bool.false_eq_true, if_false]
  omega

theorem Lexer.controlSymbol_safe {l : Lexer} {r : LexRun} (c : Byte) (h : l.Scanning r) (hn : l.cur + 2 ≤ l.buf.length) :
    (l.controlSymbol c).Safe l.Progress Lexer.Ended :=
  Lexer.delimiter_safe h hn (Lexer.yield_progress h (by decide : 2 ≤ 4) hn (Nat.le_add_right_of_le h.tstart) h.state)

theorem Lexer.controlWord_safe {l : Lexer} {r : LexRun} (cfg : Config) (kw : Buffer) (neg : Bool) (ds : Buffer) (space : Bool)
    (h : l.Scanning r) (hn : l.cur + (1 + kw.length + neg.toNat + ds.length + space.toNat) ≤ l.buf.length) :
    (l.controlWord cfg kw neg ds space).Safe l.Progress Lexer.Ended :=
  Lexer.delimiter_safe h hn (Lexer.yield_progress h (by decide : 3 ≤ 4) hn (Nat.le_add_right_of_le h.tstart) h.state)

theorem Lexer.text_safe {l : Lexer} {r : LexRun} {bs : Buffer} (h : l.Scanning r) (hpos : 0 < bs.length)
    (hn : l.cur + bs.length ≤ l.buf.length) : (l.text bs).Safe l.Progress Lexer.Ended := by
  simp only [Lexer.text, h.run, h.result, h.lphase, Option.isSome_none, Bool.false_eq_true, ne_eq, not_true_eq_false, or_self,
    if_false, Nat.not_lt.mpr hn]
  refine ⟨(Lexer.sound_scan rfl).mpr ⟨hn, Nat.le_add_right_of_le h.tstart, h.state, fun _ => h.lphase, h.no_record⟩, rfl, ?_⟩
  rw [h.stepsLeft]
  simp only [Lexer.stepsLeft, h.result, Option.isSome_none, Bool.false_eq_true, if_false]
  omega

theorem Lexer.atEnd_safe {l : Lexer} {r : LexRun} (h : l.Scanning r) : (l.atEnd r).Safe l.Progress Lexer.Ended := by
  unfold Lexer.atEnd
  split
  · exact Lexer.flush_progress h
  · exact Lexer.yield_progress h (Nat.zero_le 4) h.cur h.tstart h.state

theorem Lexer.rejected_safe {l : Lexer} {r : LexRun} {e : Reject} (h : l.Scanning r)
    (he : e = .endOfBuffer ∨ ∃ sub consumed, e = .lexical sub consumed ∧ consumed ≤ (l.buf.drop l.cur).length) :
    (l.rejected e).Safe l.Progress Lexer.Ended := by
  rcases he with rfl | ⟨sub, consumed, rfl, hlen⟩
  · simpa only [Lexer.rejected, h.run] using Lexer.atEnd_safe h
  · simp only [Lexer.rejected, h.run]
    split
    · exact Lexer.flush_progress h
    · have hcur := h.cur
      rw [List.length_drop] at hlen
      refine ⟨(Lexer.sound_idle rfl).mpr ?_, rfl⟩
      simp only [Lexer.endNext]
      omega

/-- An RTF element that stands whole at `LCUR` and has a byte is consumed, or flushes pending text (R182 to R194). -/
theorem Lexer.apply_rtf_safe {l : Lexer} {r : LexRun} {i : Instr} (cfg : Config) (hi : i.place = .rtf) (hpos : 0 < i.byteLength)
    (h : l.Scanning r) (hn : l.cur + i.byteLength ≤ l.buf.length) : (l.apply cfg i).Safe l.Progress Lexer.Ended := by
  cases i
  case rtfOpen => exact Lexer.group_safe true h hn
  case rtfClose => exact Lexer.group_safe false h hn
  case rtfControlSymbol c => exact Lexer.controlSymbol_safe c h hn
  case rtfControlWord kw neg ds space => exact Lexer.controlWord_safe cfg kw neg ds space h hn
  case rtfLineBreak c => exact Lexer.lineBreak_safe h hn
  case rtfText bs => exact Lexer.text_safe h hpos hn
  all_goals cases hi

theorem Lexer.deliver_safe {l : Lexer} {r : LexRun} (t : Token) (hr : l.run = some r) (hs : r.result.isSome = true)
    (hcur : l.cur ≤ l.buf.length) (P : Lexer → Prop) : (l.deliver t).Safe P Lexer.Ended := by
  simp only [Lexer.deliver, hr, Option.isNone_eq_false_iff.mpr hs, Bool.false_eq_true, if_false]
  exact ⟨(Lexer.sound_idle rfl).mpr hcur, rfl⟩

/-- The record of a found token ends the `LEX_NEXT` (R88). -/
theorem Lexer.apply_record_safe {l : Lexer} {r : LexRun} {i : Instr} (cfg : Config) (hi : i.place = .record) (hr : l.run = some r)
    (hs : r.result.isSome = true) (hcur : l.cur ≤ l.buf.length) (P : Lexer → Prop) : (l.apply cfg i).Safe P Lexer.Ended := by
  cases i
  case tokenEnd => exact Lexer.deliver_safe (l := { l with state := .exhausted }) .endOfStream hr hs hcur P
  case tokenGroup isOpen => exact Lexer.deliver_safe (.group isOpen) hr hs hcur P
  case tokenControlSymbol c => exact Lexer.deliver_safe (.controlSymbol c) hr hs hcur P
  case tokenControlWord kw param => exact Lexer.deliver_safe (.controlWord kw param) hr hs hcur P
  case tokenText bs => exact Lexer.deliver_safe (.text bs) hr hs hcur P
  all_goals cases hi

theorem decode_record_of_kind {rec : Record} (h : rec.kind ≤ 4) : ∃ i, decode (.record rec) = .ok (i, []) := by
  obtain ⟨i, hi⟩ := decodeRecord_of_kind h
  exact ⟨i, by simp only [decode, hi, Except.map]⟩

/-- A step of a sound lexer with a `LEX_NEXT` in progress stays inside its buffer and comes nearer to its response (R54, R195, R196). -/
theorem Lexer.tick_safe {l : Lexer} {r : LexRun} (cfg : Config) (h : l.sound = true) (hr : l.run = some r) :
    (l.tick cfg).Safe l.Progress Lexer.Ended := by
  obtain ⟨hcur, hstart, hstate, hscan, hfound⟩ := (Lexer.sound_scan hr).mp h
  cases hresult : r.result with
  | some rec =>
    obtain ⟨i, hi⟩ := decode_record_of_kind (hfound rec hresult)
    simp only [Lexer.tick, Lexer.next, hr, hresult, hi]
    exact Lexer.apply_record_safe cfg (decode_place hi) hr (by simp only [hresult, Option.isSome_some]) hcur _
  | none =>
    have hscan : l.Scanning r := ⟨hr, hresult, hscan hresult, hstate, hstart, hcur⟩
    simp only [Lexer.tick, Lexer.next, hr, hresult, Nat.not_lt.mpr hcur, if_false]
    cases hd : decode (.rtf (l.buf.drop l.cur)) with
    | error e => exact Lexer.rejected_safe hscan (decodeRtf_error hd)
    | ok p =>
      obtain ⟨hplace, hpos, hlen⟩ := decodeRtf_ok hd
      rw [List.length_drop] at hlen
      exact Lexer.apply_rtf_safe cfg hplace hpos hscan (by omega)

theorem Lexer.runAll_ok {cfg : Config} {fuel : Nat} {l : Lexer} (h : l.sound = true) (hr : l.run.isSome = true)
    (hf : l.stepsLeft < fuel) : ∃ l' r, Lexer.runAll cfg fuel l = .ok (l', r) ∧ l'.Ended := by
  induction fuel generalizing l with
  | zero => omega
  | succ fuel ih =>
    obtain ⟨run, hrun⟩ := Option.isSome_iff_exists.mp hr
    have ht := Lexer.tick_safe cfg h hrun
    simp only [Lexer.runAll]
    cases hk : l.tick cfg with
    | run l' =>
      rw [hk] at ht
      obtain ⟨hs, hr', hlt⟩ := ht
      exact ih hs hr' (Nat.lt_of_lt_of_le hlt (Nat.le_of_lt_succ hf))
    | done l' a => rw [hk] at ht; exact ⟨l', a, rfl, ht⟩
    | fault f => rw [hk] at ht; exact ht.elim
    | outOfPlace => rw [hk] at ht; exact ht.elim

theorem Lexer.beginNext_sound {l : Lexer} (tag : Nat) (h : l.sound = true) (hs : l.nextResponse = none) :
    (l.beginNext tag).sound = true := by
  have hready : l.state = .ready := by
    unfold Lexer.nextResponse at hs
    split at hs
    case h_3 hready => exact hready
    all_goals cases hs
  have hcur : l.cur ≤ l.buf.length := Lexer.cur_le_of_sound h
  exact (Lexer.sound_scan rfl).mpr ⟨hcur, Nat.le_refl _, hready, fun _ => rfl, nofun⟩

/-- `LEX_NEXT` on an idle lexer answers, and leaves it idle and sound (R181, R195). -/
theorem Lexer.nextToken_ok {l : Lexer} (cfg : Config) (tag : Nat) (h : l.sound = true) (hr : l.run = none) :
    ∃ l' r, l.nextToken cfg tag = .ok (l', r) ∧ l'.Ended := by
  unfold Lexer.nextToken
  split
  · exact ⟨l, _, rfl, h, hr⟩
  · rename_i hn
    refine Lexer.runAll_ok (Lexer.beginNext_sound tag h hn) rfl ?_
    simp only [Lexer.stepsLeft, Lexer.beginNext, LexRun.start, Lexer.bound, Option.isSome_none, Bool.false_eq_true, if_false]
    omega

theorem Lexer.skip_sound {l : Lexer} (n : Int) (h : l.sound = true) (hr : l.run = none) : (l.skip n).1.sound = true := by
  obtain ⟨-, hcur, heq⟩ := Lexer.skip_bounds l n (Lexer.cur_le_of_sound h)
  rw [heq]
  exact (Lexer.sound_idle (l := { l with cur := (l.skip n).1.cur }) hr).mpr hcur

end Sys2Proof.Machine
end

section
/-! CERTIFICATES. The invariant of the block (10_state.md): what each update of the state keeps of it, and that every step from a sound
state ends soundly. -/

namespace Sys2Proof.Machine

/-! ### Engines -/

theorem Crc.tick_safe (c : Crc) : c.tick.Safe (fun _ => True) (fun _ => True) := by
  unfold Crc.tick
  split
  all_goals trivial

/-! ### The invariant of the block -/

theorem risingKeys_iff {α : Type} {t : List (Nat × α)} : risingKeys t = true ↔ Table.Rising t := by
  induction t with
  | nil => simp [risingKeys]
  | cons p t ih =>
    obtain ⟨k, v⟩ := p
    simp [risingKeys, ih, List.pairwise_cons]

/-- The invariant, part by part. -/
structure State.Sound (s : State) : Prop where
  engines : ∀ p ∈ s.engines, p.2.sound = true
  lexers : ∀ p ∈ s.lexers, p.2.sound = true
  enginesRise : Table.Rising s.engines
  lexersRise : Table.Rising s.lexers
  numbers : ∀ p ∈ s.lexers, p.1 < s.nextLexer

theorem State.inv_iff {s : State} : s.inv = true ↔ s.Sound := by
  simp only [State.inv, Bool.and_eq_true, List.all_eq_true, decide_eq_true_eq, risingKeys_iff]
  constructor
  · rintro ⟨⟨⟨⟨h1, h2⟩, h3⟩, h4⟩, h5⟩
    exact ⟨h1, h2, h3, h4, h5⟩
  · rintro ⟨h1, h2, h3, h4, h5⟩
    exact ⟨⟨⟨⟨h1, h2⟩, h3⟩, h4⟩, h5⟩

namespace State.Sound

variable {s : State}

theorem engine (h : s.Sound) {tag : Nat} {e : Engine} (he : Table.get s.engines tag = some e) : e.sound = true :=
  h.engines _ (Table.mem_of_get he)

theorem lexer (h : s.Sound) {id : Nat} {l : Lexer} (hl : Table.get s.lexers id = some l) : l.sound = true ∧ id < s.nextLexer :=
  ⟨h.lexers _ (Table.mem_of_get hl), h.numbers _ (Table.mem_of_get hl)⟩

theorem take (h : s.Sound) (rest : List HostMove) (tag : Nat) : (s.take rest tag).Sound :=
  ⟨h.engines, h.lexers, h.enginesRise, h.lexersRise, h.numbers⟩

theorem putEngine (h : s.Sound) {e : Engine} (he : e.sound = true) : (s.putEngine e).Sound where
  engines p hp := by
    rcases Table.mem_put hp with hp | rfl
    · exact h.engines p hp
    · exact he
  lexers := h.lexers
  enginesRise := Table.rising_put h.enginesRise _ _
  lexersRise := h.lexersRise
  numbers := h.numbers

theorem putLexer (h : s.Sound) {id : Nat} {l : Lexer} (hl : l.sound = true) (hid : id < s.nextLexer) : (s.putLexer id l).Sound where
  engines := h.engines
  lexers p hp := by
    rcases Table.mem_put hp with hp | rfl
    · exact h.lexers p hp
    · exact hl
  enginesRise := h.enginesRise
  lexersRise := Table.rising_put h.lexersRise _ _
  numbers p hp := by
    rcases Table.mem_put hp with hp | rfl
    · exact h.numbers p hp
    · exact hid

theorem openLexer (h : s.Sound) {l : Lexer} (hl : l.sound = true) : (s.openLexer l).Sound where
  engines := h.engines
  lexers p hp := by
    rcases Table.mem_put hp with hp | rfl
    · exact h.lexers p hp
    · exact hl
  enginesRise := h.enginesRise
  lexersRise := Table.rising_put h.lexersRise _ _
  numbers p hp := by
    rcases Table.mem_put hp with hp | rfl
    · exact Nat.lt_succ_of_lt (h.numbers p hp)
    · exact Nat.lt_succ_self _

theorem dropLexer (h : s.Sound) (id : Nat) : (s.dropLexer id).Sound where
  engines := h.engines
  lexers p hp := h.lexers p (Table.mem_del hp)
  enginesRise := h.enginesRise
  lexersRise := Table.rising_del h.lexersRise _
  numbers p hp := h.numbers p (Table.mem_del hp)

theorem finish (h : s.Sound) (r : Response) : (s.finish r).Sound where
  engines p hp := h.engines p (Table.mem_del hp)
  lexers := h.lexers
  enginesRise := Table.rising_del h.enginesRise _
  lexersRise := h.lexersRise
  numbers := h.numbers

end State.Sound

/-! ### Outcomes -/

/-- A sound outcome: a sound next state or a refusal, never a model fault (R219). -/
def Outcome.Safe : Host.Outcome State Fault Refusal → Prop
  | .next t => t.Sound
  | .fault _ => False
  | .refused _ => True

@[simp] theorem Outcome.safe_refused (r : Refusal) : Outcome.Safe (.refused r) := trivial

theorem Outcome.Safe.noFault {o : Host.Outcome State Fault Refusal} (h : Outcome.Safe o) : Outcome.noFault o := by
  rintro f rfl
  exact h

theorem Outcome.Safe.inv {o : Host.Outcome State Fault Refusal} {t : State} (h : Outcome.Safe o) (ho : o = .next t) :
    t.inv = true := by
  subst ho
  exact State.inv_iff.mpr h

section
variable {s : State}

theorem State.answer_safe (h : s.Sound) (r : Response) : Outcome.Safe (s.answer (.ok r)) := by
  rw [State.answer_ok]
  exact h.finish r

theorem State.answer_safe_of_ok (h : s.Sound) {a : Except Fault Response} (ha : ∃ r, a = .ok r) : Outcome.Safe (s.answer a) := by
  obtain ⟨r, rfl⟩ := ha
  exact State.answer_safe h r

theorem State.afterEngine_safe {σ : Type} {wrap : σ → Engine} {k : Tick σ} {P Q : σ → Prop} (h : s.Sound) (hk : k.Safe P Q)
    (hP : ∀ e, P e → (wrap e).sound = true) : Outcome.Safe (s.afterEngine wrap k) := by
  cases k with
  | run e => exact h.putEngine (hP e hk)
  | done e r => exact State.answer_safe h r
  | fault f => exact hk.elim
  | outOfPlace => exact hk.elim

theorem State.afterLexer_safe {id : Nat} {k : Tick Lexer} {P Q : Lexer → Prop} (h : s.Sound) (hid : id < s.nextLexer)
    (hk : k.Safe P Q) (hP : ∀ l, P l → l.sound = true) (hQ : ∀ l, Q l → l.sound = true) : Outcome.Safe (s.afterLexer id k) := by
  cases k with
  | run l => exact h.putLexer (hP l hk) hid
  | done l r => exact State.answer_safe (h.putLexer (hQ l hk) hid) r
  | fault f => exact hk.elim
  | outOfPlace => exact hk.elim

theorem State.onLexer_safe {id : Nat} {f : Lexer → Host.Outcome State Fault Refusal} (h : s.Sound)
    (hf : ∀ l : Lexer, l.sound = true → l.run = none → id < s.nextLexer → Outcome.Safe (f l)) : Outcome.Safe (s.onLexer id f) := by
  unfold State.onLexer
  split
  · trivial
  · rename_i l hl
    split
    · trivial
    · rename_i hr
      obtain ⟨hs, hid⟩ := h.lexer hl
      exact hf l hs (by simpa using hr) hid

/-! ### Host commands -/

theorem execLexOpen_safe (h : s.Sound) (data : Buffer) : Outcome.Safe (execLexOpen data s) :=
  (h.openLexer ((Lexer.sound_idle rfl).mpr (Nat.zero_le _))).finish _

theorem execLexNext_safe (h : s.Sound) (id : Nat) : Outcome.Safe (execLexNext id s) :=
  State.onLexer_safe h fun l hl hr hid => by
    obtain ⟨l', r, hn, hl', -⟩ := Lexer.nextToken_ok s.cfg s.focus hl hr
    simp only [hn]
    exact State.answer_safe (h.putLexer hl' hid) r

theorem execLexSkip_safe (h : s.Sound) (id : Nat) (n : Int) : Outcome.Safe (execLexSkip id n s) :=
  State.onLexer_safe h fun _ hl hr hid => State.answer_safe (h.putLexer (Lexer.skip_sound n hl hr) hid) _

theorem execLexClose_safe (h : s.Sound) (id : Nat) : Outcome.Safe (execLexClose id s) :=
  State.onLexer_safe h fun _ _ _ _ => (h.dropLexer id).finish _

/-- A host command run as one transaction keeps the block sound and ends with its response (R59, R175). -/
theorem exec_command_safe {i : Instr} (hi : i.place = .command) (h : s.Sound) : Outcome.Safe (exec i s) := by
  cases i
  case crc32 crcIn data => exact State.answer_safe h (.ok (.word (crc crcIn data)))
  case compress mode data => exact State.answer_safe_of_ok h (compressResponse_ok s.cfg mode data)
  case decompress data => exact State.answer_safe_of_ok h (Dec.runAll_start_ok s.cfg .decompress data)
  case parseHeader data => exact State.answer_safe_of_ok h (Dec.runAll_start_ok s.cfg .parseHeader data)
  case lexOpen data => exact execLexOpen_safe h data
  case lexNext id => exact execLexNext_safe h id
  case lexSkip id n => exact execLexSkip_safe h id n
  case lexClose id => exact execLexClose_safe h id
  all_goals cases hi

theorem State.runCommand_safe (h : s.Sound) (c : HostCommand) : Outcome.Safe (s.runCommand c) := by
  unfold State.runCommand
  split
  · trivial
  · split
    · trivial
    · rename_i hd
      exact exec_command_safe (decode_place hd) h

theorem State.startNext_safe (h : s.Sound) (id : Nat) : Outcome.Safe (s.startNext id) :=
  State.onLexer_safe h fun l hl _ hid => by
    split
    · exact State.answer_safe h _
    · rename_i hn
      exact h.putLexer (Lexer.beginNext_sound s.focus hl hn) hid

theorem State.startCommand_safe (h : s.Sound) (c : HostCommand) : Outcome.Safe (s.startCommand c) := by
  unfold State.startCommand
  split
  · trivial
  · split
    case h_1 => trivial
    case h_6 => exact State.startNext_safe h _
    case h_7 hd => exact exec_command_safe (decode_place hd) h
    all_goals exact h.putEngine rfl

/-! ### A step of a command in progress -/

/-- A header or token acts on the decompressor in focus (R61). -/
theorem exec_stream {i : Instr} (hi : i.place.ofStream = true) (s : State) : exec i s = s.onDec (Dec.apply s.cfg i) := by
  cases i
  case hdrLZFu | hdrMELA | hdrOther | ctrl | lit | ref | eos => rfl
  all_goals cases hi

/-- A record or RTF element acts on the lexer whose `LEX_NEXT` is in focus (R61). -/
theorem exec_scan {i : Instr} (hi : i.place.ofScan = true) (s : State) : exec i s = s.onScan (Lexer.apply s.cfg i) := by
  cases i
  case tokenEnd | tokenGroup | tokenControlSymbol | tokenControlWord | tokenText => rfl
  case rtfOpen | rtfClose | rtfControlSymbol | rtfControlWord | rtfLineBreak | rtfText => rfl
  all_goals cases hi

theorem Dec.next_place {d : Dec} {c : Code} (h : d.next = .read c) : c.place.ofStream = true := by
  unfold Dec.next at h
  split at h
  case h_1 => cases h; rfl
  case h_2 => split at h <;> cases h; rfl
  case h_3 => split at h <;> cases h; rfl
  all_goals cases h

theorem State.rejected_stream {c : Code} (hc : c.place.ofStream = true) (s : State) (e : Reject) :
    s.rejected c e = s.answer (.ok (.err (tooFewBytes c))) := by
  cases c
  case header | control | body => rfl
  all_goals cases hc

/-- The decompressor in focus takes its step: reading an element through `exec` is the engine's own `tick`. -/
theorem State.advance_dec {d : Dec} (h : Table.get s.engines s.focus = some (.dec d)) :
    s.advance = s.afterEngine .dec (d.tick s.cfg) := by
  simp only [State.advance, State.next, h, Dec.tick]
  cases hn : d.next with
  | fault f => rfl
  | inner => simp only [State.innerStage, h]
  | read c =>
    have hc := Dec.next_place hn
    cases hd : decode c with
    | error e =>
      simp only [hd]
      exact State.rejected_stream hc s e
    | ok p => simpa only [hd] using (exec_stream (decode_place hd ▸ hc) s).trans (State.onDec_eq _ h)

theorem State.advance_comp {c : Comp} (h : Table.get s.engines s.focus = some (.comp c)) :
    s.advance = s.afterEngine .comp (c.tick s.cfg) := by
  simp only [State.advance, State.next, State.innerStage, h]

theorem State.advance_crc {c : Crc} (h : Table.get s.engines s.focus = some (.crc c)) : s.advance = s.afterEngine .crc c.tick := by
  simp only [State.advance, State.next, State.innerStage, h]

/-- The lexer in focus takes its step: reading an element through `exec` is the lexer's own `tick`. -/
theorem State.advance_lexer {id : Nat} {l : Lexer} (hn : Table.get s.engines s.focus = none)
    (hf : findRun s.lexers s.focus = some (id, l)) (hl : l.sound = true) : s.advance = s.afterLexer id (l.tick s.cfg) := by
  obtain ⟨-, r, hr, -⟩ := findRun_mem hf
  obtain ⟨hcur, -, -, -, hfound⟩ := (Lexer.sound_scan hr).mp hl
  cases hresult : r.result with
  | some rec =>
    obtain ⟨i, hi⟩ := decode_record_of_kind (hfound rec hresult)
    simp only [State.advance, State.next, hn, hf, Option.map_some, Lexer.tick, Lexer.next, hr, hresult, hi]
    exact (exec_scan (by rw [decode_place hi]; rfl) s).trans (State.onScan_eq _ hf)
  | none =>
    simp only [State.advance, State.next, hn, hf, Option.map_some, Lexer.tick, Lexer.next, hr, hresult, Nat.not_lt.mpr hcur, if_false]
    cases hd : decode (.rtf (l.buf.drop l.cur)) with
    | error e => exact State.onScan_eq _ hf
    | ok p => exact (exec_scan (by rw [decode_place hd]; rfl) s).trans (State.onScan_eq _ hf)

theorem State.advance_safe (h : s.Sound) : Outcome.Safe s.advance := by
  cases hg : Table.get s.engines s.focus with
  | some e =>
    have he := h.engine hg
    cases e with
    | crc c => exact State.advance_crc hg ▸ State.afterEngine_safe h (Crc.tick_safe c) fun _ _ => rfl
    | comp c => exact State.advance_comp hg ▸ State.afterEngine_safe h (Comp.tick_safe s.cfg he) fun _ hP => hP.1
    | dec d => exact State.advance_dec hg ▸ State.afterEngine_safe h (Dec.tick_safe s.cfg he) fun _ hP => hP.1
  | none =>
    cases hf : findRun s.lexers s.focus with
    | none => simp [State.advance, State.next, hg, hf]
    | some p =>
      obtain ⟨id, l⟩ := p
      obtain ⟨hmem, r, hr, -⟩ := findRun_mem hf
      have hl := h.lexers _ hmem
      rw [State.advance_lexer hg hf hl]
      exact State.afterLexer_safe h (h.numbers _ hmem) (Lexer.tick_safe s.cfg hl hr) (fun _ hP => hP.1) fun _ hQ => hQ.1

/-- Every step from a sound state ends soundly, whatever the host's move. -/
theorem step_safe (h : s.Sound) : Outcome.Safe (step s) := by
  unfold step State.move
  split
  · exact h
  · exact State.runCommand_safe (h.take _ _) _
  · exact State.startCommand_safe (h.take _ _) _
  · exact State.advance_safe (h.take _ _)

end

/-- Settles O10: a step of a sound state ends soundly, by cases on the host's move. -/
theorem stepKeepsSoundness : Obligations.StepKeepsSoundness :=
  fun _ _ h ht => (step_safe (State.inv_iff.mp h)).inv ht

/-- Settles O11: a step of a sound state ends soundly, and a sound outcome is no fault. -/
theorem soundStatesNeverFault : Obligations.SoundStatesNeverFault :=
  fun _ h => (step_safe (State.inv_iff.mp h)).noFault

end Sys2Proof.Machine
end

section
/-! CERTIFICATES. The frame of an instruction (20_memory.md rule R57, 60_exceptions.md rules R227 and R228): it acts on the engine in focus
and on one lexer, and leaves every other engine and lexer as they are. -/

namespace Sys2Proof.Machine

/-- What an instruction that acts on the engine in focus, and on the lexer `acted` if any, leaves unchanged. -/
structure State.KeepsOthers (acted : Option Nat) (s t : State) : Prop where
  focus : t.focus = s.focus
  moves : t.moves = s.moves
  engines : ∀ tag, tag ≠ s.focus → Table.get t.engines tag = Table.get s.engines tag
  lexers : ∀ id, acted ≠ some id → Table.get t.lexers id = Table.get s.lexers id

namespace State.KeepsOthers

variable {acted : Option Nat} {s t : State}

theorem putEngine (s : State) (e : Engine) : s.KeepsOthers acted (s.putEngine e) :=
  ⟨rfl, rfl, fun _ h => Table.get_put_other _ _ h, fun _ _ => rfl⟩

theorem putLexer (s : State) (id : Nat) (l : Lexer) : s.KeepsOthers (some id) (s.putLexer id l) :=
  ⟨rfl, rfl, fun _ _ => rfl, fun _ h => Table.get_put_other _ _ fun heq => h (congrArg some heq.symm)⟩

theorem openLexer (s : State) (l : Lexer) : s.KeepsOthers (some s.nextLexer) (s.openLexer l) :=
  ⟨rfl, rfl, fun _ _ => rfl, (putLexer s s.nextLexer l).lexers⟩

theorem dropLexer (s : State) (id : Nat) : s.KeepsOthers (some id) (s.dropLexer id) :=
  ⟨rfl, rfl, fun _ _ => rfl, fun _ h => Table.get_del_other _ fun heq => h (congrArg some heq.symm)⟩

theorem refl (s : State) : s.KeepsOthers acted s := ⟨rfl, rfl, fun _ _ => rfl, fun _ _ => rfl⟩

/-- The end of the command in focus removes that command's engine only (R35, R210). -/
theorem finish (h : s.KeepsOthers acted t) (r : Response) : s.KeepsOthers acted (t.finish r) :=
  ⟨h.focus, h.moves, fun tag hne => (Table.get_del_other _ (h.focus ▸ hne)).trans (h.engines tag hne), h.lexers⟩

theorem answer {u : State} {r : Except Fault Response} (h : s.KeepsOthers acted t) (ha : t.answer r = .next u) :
    s.KeepsOthers acted u := by
  obtain ⟨v, -, rfl⟩ := State.answer_next.mp ha
  exact h.finish v

/-- An element of a stream acts on the decompressor in focus, and on no lexer. -/
theorem onDec {f : Dec → Tick Dec} (h : s.onDec f = .next t) : s.KeepsOthers acted t := by
  obtain ⟨d, -, ⟨d', -, rfl⟩ | ⟨d', r, -, rfl⟩⟩ := State.onDec_next h
  · exact putEngine s _
  · exact (refl s).finish r

/-- A record or RTF element acts on the lexer whose `LEX_NEXT` is in focus. -/
theorem onScan {f : Lexer → Tick Lexer} (h : s.onScan f = .next t) :
    s.KeepsOthers ((findRun s.lexers s.focus).map Prod.fst) t := by
  obtain ⟨id, l, hfind, ⟨l', -, rfl⟩ | ⟨l', r, -, rfl⟩⟩ := State.onScan_next h
  all_goals rw [hfind]
  · exact putLexer s id l'
  · exact (putLexer s id l').finish r

theorem execLexNext {id : Nat} (h : execLexNext id s = .next t) : s.KeepsOthers (some id) t := by
  obtain ⟨l, -, -, hl⟩ := State.onLexer_next h
  cases hn : l.nextToken s.cfg s.focus with
  | error f => simp only [hn, reduceCtorEq] at hl
  | ok p =>
    simp only [hn] at hl
    exact (putLexer s id p.1).answer hl

theorem execLexSkip {id : Nat} {n : Int} (h : execLexSkip id n s = .next t) : s.KeepsOthers (some id) t := by
  obtain ⟨l, -, -, hl⟩ := State.onLexer_next h
  exact (putLexer s id (l.skip n).1).answer hl

theorem execLexClose {id : Nat} (h : execLexClose id s = .next t) : s.KeepsOthers (some id) t := by
  obtain ⟨l, -, -, hl⟩ := State.onLexer_next h
  cases hl
  exact (dropLexer s id).finish _

end State.KeepsOthers

theorem lexerOf_scan {i : Instr} (hi : i.place.ofScan = true) (s : State) :
    lexerOf i s = (findRun s.lexers s.focus).map Prod.fst := by
  cases i
  case tokenEnd | tokenGroup | tokenControlSymbol | tokenControlWord | tokenText => rfl
  case rtfOpen | rtfClose | rtfControlSymbol | rtfControlWord | rtfLineBreak | rtfText => rfl
  all_goals cases hi

/-- A host command acts on the lexer it names or opens (R201, R228), and a codec or CRC command on none. -/
theorem exec_command_keepsOthers {i : Instr} {s t : State} (hi : i.place = .command) (h : exec i s = .next t) :
    s.KeepsOthers (lexerOf i s) t := by
  cases i
  case crc32 crcIn data => exact (State.KeepsOthers.refl s).answer (r := .ok (.ok (.word (crc crcIn data)))) h
  case compress mode data => exact (State.KeepsOthers.refl s).answer (r := compressResponse s.cfg mode data) h
  case decompress data => exact (State.KeepsOthers.refl s).answer (r := decompressResponse s.cfg data) h
  case parseHeader data => exact (State.KeepsOthers.refl s).answer (r := parseHeaderResponse s.cfg data) h
  case lexOpen data =>
    cases h
    exact (State.KeepsOthers.openLexer s _).finish _
  case lexNext id => exact State.KeepsOthers.execLexNext h
  case lexSkip id n => exact State.KeepsOthers.execLexSkip h
  case lexClose id => exact State.KeepsOthers.execLexClose h
  all_goals cases hi

theorem exec_keepsOthers {i : Instr} {s t : State} (h : exec i s = .next t) : s.KeepsOthers (lexerOf i s) t := by
  cases hp : i.place with
  | command => exact exec_command_keepsOthers hp h
  | header | control | body => exact State.KeepsOthers.onDec (exec_stream (by rw [hp]; rfl) s ▸ h)
  | record | rtf =>
    have hscan : i.place.ofScan = true := by rw [hp]; rfl
    rw [lexerOf_scan hscan]
    exact State.KeepsOthers.onScan (exec_scan hscan s ▸ h)

/-- Settles O13: by the place of the instruction, each of which has one operation that acts on the state. -/
theorem instancesAreIsolated : Obligations.InstancesAreIsolated := by
  intro i s t h
  have hk := exec_keepsOthers h
  exact ⟨hk.focus, hk.moves, hk.engines, hk.lexers⟩

end Sys2Proof.Machine
end

section
/-! SUPPORT. An engine that takes its steps one by one (60_exceptions.md rule R227): the steps up to its response, that the loop of a whole
command takes the same ones, and what a lexer's steps keep. -/

namespace Sys2Proof.Machine

/-! ### The steps of an engine up to its response -/

/-- From the registers `e` an engine takes `n` steps, the last of which answers `r` and leaves the registers `e'`. -/
inductive Tick.Ends {σ : Type} (tick : σ → Tick σ) : Nat → σ → σ → Response → Prop where
  | done {e e' : σ} {r : Response} : tick e = .done e' r → Ends tick 1 e e' r
  | run {n : Nat} {e e₁ e' : σ} {r : Response} : tick e = .run e₁ → Ends tick n e₁ e' r → Ends tick (n + 1) e e' r

/-- One round of a loop that takes an engine's steps: it goes on as `loop`, or presents the end as `out`. -/
def Tick.resume {σ ρ : Type} (loop : σ → Except Fault ρ) (out : σ → Response → ρ) : Tick σ → Except Fault ρ
  | .run e => loop e
  | .done e r => .ok (out e r)
  | .fault f => .error f
  | .outOfPlace => .error .runaway

/-- A loop that takes an engine's steps up to its response (R59) answers as those steps do. -/
theorem Tick.ends_of_loop {σ ρ : Type} {tick : σ → Tick σ} {loop : Nat → σ → Except Fault ρ} {out : σ → Response → ρ}
    (hzero : ∀ e, loop 0 e = .error .runaway) (hsucc : ∀ n e, loop (n + 1) e = (tick e).resume (loop n) out)
    {fuel : Nat} {e : σ} {a : ρ} (h : loop fuel e = .ok a) : ∃ n e' r, Tick.Ends tick n e e' r ∧ a = out e' r := by
  induction fuel generalizing e with
  | zero => simp only [hzero, reduceCtorEq] at h
  | succ fuel ih =>
    rw [hsucc] at h
    cases hk : tick e with
    | run e₁ =>
      obtain ⟨n, e', r, hends, ha⟩ := ih (hk ▸ h)
      exact ⟨n + 1, e', r, .run hk hends, ha⟩
    | done e' r =>
      simp only [hk, Tick.resume, Except.ok.injEq] at h
      exact ⟨1, e', r, .done hk, h.symm⟩
    | fault f | outOfPlace => simp only [hk, Tick.resume, reduceCtorEq] at h

theorem Comp.runAll_succ (cfg : Config) (fuel : Nat) (c : Comp) :
    Comp.runAll cfg (fuel + 1) c = (c.tick cfg).resume (Comp.runAll cfg fuel) (fun _ r => r) := by
  cases h : c.tick cfg <;> simp only [Comp.runAll, Tick.resume, h]

theorem Comp.ends_of_runAll {cfg : Config} {fuel : Nat} {c : Comp} {r : Response} (h : Comp.runAll cfg fuel c = .ok r) :
    ∃ n c', Tick.Ends (Comp.tick cfg) n c c' r := by
  obtain ⟨n, c', _, hends, rfl⟩ := Tick.ends_of_loop (fun _ => rfl) (Comp.runAll_succ cfg) h
  exact ⟨n, c', hends⟩

theorem Dec.runAll_succ (cfg : Config) (fuel : Nat) (d : Dec) :
    Dec.runAll cfg (fuel + 1) d = (d.tick cfg).resume (Dec.runAll cfg fuel) (fun _ r => r) := by
  cases h : d.tick cfg <;> simp only [Dec.runAll, Tick.resume, h]

theorem Dec.ends_of_runAll {cfg : Config} {fuel : Nat} {d : Dec} {r : Response} (h : Dec.runAll cfg fuel d = .ok r) :
    ∃ n d', Tick.Ends (Dec.tick cfg) n d d' r := by
  obtain ⟨n, d', _, hends, rfl⟩ := Tick.ends_of_loop (fun _ => rfl) (Dec.runAll_succ cfg) h
  exact ⟨n, d', hends⟩

theorem Lexer.runAll_succ (cfg : Config) (fuel : Nat) (l : Lexer) :
    Lexer.runAll cfg (fuel + 1) l = (l.tick cfg).resume (Lexer.runAll cfg fuel) Prod.mk := by
  cases h : l.tick cfg <;> simp only [Lexer.runAll, Tick.resume, h]

theorem Lexer.ends_of_runAll {cfg : Config} {fuel : Nat} {l l' : Lexer} {r : Response}
    (h : Lexer.runAll cfg fuel l = .ok (l', r)) : ∃ n, Tick.Ends (Lexer.tick cfg) n l l' r := by
  obtain ⟨n, _, _, hends, heq⟩ := Tick.ends_of_loop (fun _ => rfl) (Lexer.runAll_succ cfg) h
  cases heq
  exact ⟨n, hends⟩

/-- The steps of the CRC engine fold the bytes not yet folded (R105). -/
theorem Crc.ends_fold (c : Crc) :
    ∃ n c', Tick.Ends Crc.tick n c c' (.ok (.word (crc c.acc (c.inp.drop c.pos)))) := by
  induction hleft : c.inp.length - c.pos generalizing c with
  | zero =>
    have hpos : c.inp.length ≤ c.pos := by omega
    refine ⟨1, c, .done ?_⟩
    simp [Crc.tick, List.getElem?_eq_none hpos, List.drop_eq_nil_of_le hpos, crc]
  | succ left ih =>
    have hpos : c.pos < c.inp.length := by omega
    have htick : c.tick = .run { c with pos := c.pos + 1, acc := crcStep c.acc c.inp[c.pos] } := by
      simp only [Crc.tick, List.getElem?_eq_getElem hpos]
    obtain ⟨n, c', hends⟩ := ih { c with pos := c.pos + 1, acc := crcStep c.acc c.inp[c.pos] } (by simp only; omega)
    exact ⟨n + 1, c', .run htick (List.drop_eq_getElem_cons hpos ▸ hends)⟩

/-! ### The tag of a scan -/

/-- The tag of the `LEX_NEXT` in progress on a lexer, if any. -/
def Lexer.scanTag (l : Lexer) : Option Nat := l.run.map LexRun.tag

theorem Lexer.scanTag_eq {l : Lexer} {r : LexRun} (h : l.run = some r) : l.scanTag = some r.tag := by
  simp [Lexer.scanTag, h]

theorem Lexer.delimiter_scanTag {l l' : Lexer} {n : Nat} {effect : LexRun → Lexer}
    (heffect : ∀ r, (effect r).scanTag = some r.tag) (h : l.delimiter n effect = .run l') : l'.scanTag = l.scanTag := by
  obtain ⟨r, hr, -, -, ⟨-, rfl⟩ | ⟨-, -, rfl⟩⟩ := Lexer.delimiter_run h
  · exact (Lexer.scanTag_eq hr).symm
  · rw [heffect, Lexer.scanTag_eq hr]

theorem Lexer.deliver_not_run {l l' : Lexer} {t : Token} : l.deliver t ≠ .run l' := by
  intro h
  unfold Lexer.deliver at h
  split at h
  · cases h
  · split at h <;> cases h

theorem Lexer.apply_scanTag {cfg : Config} {i : Instr} {l l' : Lexer} (h : l.apply cfg i = .run l') : l'.scanTag = l.scanTag := by
  cases i
  case rtfOpen | rtfClose => exact Lexer.delimiter_scanTag (fun _ => rfl) h
  case rtfControlSymbol | rtfControlWord | rtfLineBreak => exact Lexer.delimiter_scanTag (fun _ => rfl) h
  case rtfText bs =>
    obtain ⟨r, -, -, -, -, rfl⟩ := Lexer.text_run h
    rfl
  case tokenEnd | tokenGroup | tokenControlSymbol | tokenControlWord | tokenText => exact (Lexer.deliver_not_run h).elim
  all_goals cases h

theorem Lexer.atEnd_scanTag {l l' : Lexer} {r : LexRun} (hr : l.run = some r) (h : l.atEnd r = .run l') :
    l'.scanTag = l.scanTag := by
  rw [Lexer.scanTag_eq hr]
  unfold Lexer.atEnd at h
  split at h <;> (cases h; rfl)

theorem Lexer.rejected_scanTag {l l' : Lexer} {e : Reject} (h : l.rejected e = .run l') : l'.scanTag = l.scanTag := by
  cases hr : l.run with
  | none => simp [Lexer.rejected, hr] at h
  | some r =>
    simp only [Lexer.rejected, hr] at h
    cases e with
    | endOfBuffer => exact Lexer.atEnd_scanTag hr h
    | lexical sub consumed =>
      dsimp only at h
      split at h
      · cases h
        exact (Lexer.scanTag_eq hr).symm
      · cases h
    | notACommand | missingOperand | operandNotU32 | tooShort | unknownKind => cases h

/-- The steps of a `LEX_NEXT` in progress keep its tag. -/
theorem Lexer.tick_scanTag {cfg : Config} {l l' : Lexer} (h : l.tick cfg = .run l') : l'.scanTag = l.scanTag := by
  unfold Lexer.tick at h
  split at h
  · cases h
  · cases h
  · split at h
    · exact Lexer.rejected_scanTag h
    · exact Lexer.apply_scanTag h

/-! ### Tables and updates -/

theorem findRun_cons (id : Nat) (l : Lexer) (ls : List (Nat × Lexer)) (tag : Nat) :
    findRun ((id, l) :: ls) tag = if l.scanTag = some tag then some (id, l) else findRun ls tag := by
  cases hr : l.run <;> simp [findRun, Lexer.scanTag, hr]

/-- Where no other lexer scans under a tag, the lexer put with a scan under it is the one found. -/
theorem findRun_put {ls : List (Nat × Lexer)} {id tag : Nat} {l : Lexer} (h : findRun ls tag = none)
    (hl : l.scanTag = some tag) : findRun (Table.put ls id l) tag = some (id, l) := by
  induction ls with
  | nil => simp [Table.put, findRun_cons, hl]
  | cons p ls ih =>
    obtain ⟨k, m⟩ := p
    have hm : m.scanTag ≠ some tag := fun hm => by simp [findRun_cons, hm] at h
    simp only [findRun_cons, hm, if_false] at h
    simp only [Table.put]
    split
    · simp [findRun_cons, hl]
    · split
      · simp [findRun_cons, hl]
      · simp [findRun_cons, hm, ih h]

/-- Setting an entry of a rising table to what it holds changes nothing. -/
theorem Table.put_get {α : Type} {t : List (Nat × α)} {n : Nat} {v : α} (ht : Table.Rising t) (h : Table.get t n = some v) :
    Table.put t n v = t := by
  induction t with
  | nil => simp [Table.get] at h
  | cons p t ih =>
    obtain ⟨k, w⟩ := p
    obtain ⟨hk, ht'⟩ := List.pairwise_cons.mp ht
    simp only [Table.get] at h
    split at h
    · rename_i heq
      cases h
      simp [Table.put, heq]
    · rename_i hne
      have hlt : k < n := hk _ (Table.mem_of_get h)
      simp [Table.put, hne, Nat.not_lt.mpr (Nat.le_of_lt hlt), ih ht' h]

theorem State.putLexer_get {s : State} {id : Nat} {l : Lexer} (hs : s.Sound) (h : Table.get s.lexers id = some l) :
    s.putLexer id l = s := by
  unfold State.putLexer
  rw [Table.put_get hs.lexersRise h]

theorem State.putEngine_putEngine (s : State) (e e' : Engine) : (s.putEngine e).putEngine e' = s.putEngine e' := by
  simp [State.putEngine, Table.put_put]

theorem State.putEngine_finish (s : State) (e : Engine) (r : Response) : (s.putEngine e).finish r = s.finish r := by
  simp [State.putEngine, State.finish, Table.del_put]

theorem State.putLexer_putLexer (s : State) (id : Nat) (l l' : Lexer) : (s.putLexer id l).putLexer id l' = s.putLexer id l' := by
  simp [State.putLexer, Table.put_put]

theorem State.tagBusy_eq_false {s : State} {tag : Nat} :
    s.tagBusy tag = false ↔ Table.get s.engines tag = none ∧ findRun s.lexers tag = none := by
  simp [State.tagBusy]

@[simp] theorem State.take_tagBusy (s : State) (ms : List HostMove) (tag n : Nat) :
    (s.take ms tag).tagBusy n = s.tagBusy n := rfl

theorem State.runCommand_eq {s : State} {c : HostCommand} {i : Instr} {rest : Buffer} (hb : s.tagBusy s.focus = false)
    (hd : decode (.command c) = .ok (i, rest)) : s.runCommand c = exec i s := by
  simp [State.runCommand, hb, hd]

theorem State.onLexer_congr {s : State} {id : Nat} {f g : Lexer → Host.Outcome State Fault Refusal}
    (h : ∀ l, Table.get s.lexers id = some l → l.run = none → f l = g l) : s.onLexer id f = s.onLexer id g := by
  unfold State.onLexer
  split
  · rfl
  · rename_i l hl
    split
    · rfl
    · rename_i hr
      exact h l hl (by simpa using hr)

end Sys2Proof.Machine
end

section
/-! CERTIFICATES. A command run as one transaction (20_memory.md rule R59, 70_reset_and_hazards.md rule R243) and the same command whose
engine takes its steps one by one (60_exceptions.md rule R227) end alike. -/

namespace Sys2Proof.Machine

/-! ### Runs of the machine -/

theorem run_succ_of_step {s t : State} (n : Nat) (h : step s = .next t) :
    Host.Core.run Sys2Proof.core (n + 1) s = Host.Core.run Sys2Proof.core n t := by
  simp only [Host.Core.run, show Sys2Proof.core.step s = .next t from h]

theorem run_one (s : State) : Host.Core.run Sys2Proof.core 1 s = step s := by
  simp only [Host.Core.run, show Sys2Proof.core.step s = step s from rfl]
  cases step s <;> rfl

/-- The host's `advance` moves, one for each step of the command in focus: where `during e ms` is the state with the engine's registers
`e` and the moves `ms` left, and each step acts on the registers as `tick` does, the run ends in the state `after` the last step. `Inv` is
what the registers keep. -/
theorem run_advances {σ : Type} {tick : σ → Tick σ} {tag : Nat} {Inv : σ → Prop} {during : σ → List HostMove → State}
    {after : σ → Response → State}
    (hrun : ∀ e e' ms, Inv e → tick e = .run e' → Inv e' ∧ step (during e (.advance tag :: ms)) = .next (during e' ms))
    (hdone : ∀ e e' r, Inv e → tick e = .done e' r → step (during e [.advance tag]) = .next (after e' r))
    {n : Nat} {e e' : σ} {r : Response} (h : Tick.Ends tick n e e' r) (he : Inv e) :
    Host.Core.run Sys2Proof.core n (during e (List.replicate n (.advance tag))) = .next (after e' r) := by
  induction h with
  | done hk => exact (run_one _).trans (hdone _ _ _ he hk)
  | run hk _ ih =>
    obtain ⟨he', hstep⟩ := hrun _ _ _ he hk
    exact (run_succ_of_step _ hstep).trans (ih he')

theorem step_start (s : State) (ms : List HostMove) (tag : Nat) (c : HostCommand) :
    step { s with moves := .start tag c :: ms } = (s.take ms tag).startCommand c := rfl

theorem step_run (s : State) (ms : List HostMove) (tag : Nat) (c : HostCommand) :
    step { s with moves := .run tag c :: ms } = (s.take ms tag).runCommand c := rfl

section
variable {s : State} {tag : Nat} {c : HostCommand} {rest : Buffer}

/-- What O7 says of a state, a tag and a command. -/
def TransactionIsStepwise (s : State) (tag : Nat) (c : HostCommand) : Prop :=
  ∃ k : Nat,
    Host.Core.run Sys2Proof.core (k + 1) ({ s with moves := .start tag c :: List.replicate k (.advance tag) } : State) =
      Host.Core.run Sys2Proof.core 1 ({ s with moves := [.run tag c] } : State)

/-- A command that its start completes or refuses as the transaction does. -/
theorem TransactionIsStepwise.of_start (h : (s.take [] tag).startCommand c = (s.take [] tag).runCommand c) :
    TransactionIsStepwise s tag c := by
  refine ⟨0, ?_⟩
  rw [Nat.zero_add, run_one, run_one, List.replicate_zero, step_start, step_run, h]

/-- A command whose start leaves a state from which `n` advances end as the transaction does. -/
theorem TransactionIsStepwise.of_advances {n : Nat} {during : List HostMove → State} {t : State}
    (hstart : ∀ ms, (s.take ms tag).startCommand c = .next (during ms))
    (hadvances : Host.Core.run Sys2Proof.core n (during (List.replicate n (.advance tag))) = .next t)
    (hrun : (s.take [] tag).runCommand c = .next t) : TransactionIsStepwise s tag c := by
  refine ⟨n, ?_⟩
  rw [run_succ_of_step n ((step_start ..).trans (hstart _)), hadvances, run_one, step_run]
  exact hrun.symm

/-! ### Codec and CRC commands -/

/-- The engine in focus takes its step as `tick` does, whatever its registers. -/
def StepsAs {σ : Type} (cfg : Config) (wrap : σ → Engine) (tick : σ → Tick σ) : Prop :=
  ∀ (t : State) (e : σ), t.cfg = cfg → Table.get t.engines t.focus = some (wrap e) → t.advance = t.afterEngine wrap (tick e)

theorem crc_stepsAs (cfg : Config) : StepsAs cfg .crc Crc.tick := fun _ _ _ hg => State.advance_crc hg

theorem comp_stepsAs (cfg : Config) : StepsAs cfg .comp (Comp.tick cfg) := fun _ _ hc hg => hc ▸ State.advance_comp hg

theorem dec_stepsAs (cfg : Config) : StepsAs cfg .dec (Dec.tick cfg) := fun _ _ hc hg => hc ▸ State.advance_dec hg

/-- The engine under a tag takes its steps: its registers are put back at each, and removed at the end (R35). -/
theorem run_advances_engine {σ : Type} {wrap : σ → Engine} {tick : σ → Tick σ} (hsteps : StepsAs s.cfg wrap tick)
    {n : Nat} {e e' : σ} {r : Response} (h : Tick.Ends tick n e e' r) :
    Host.Core.run Sys2Proof.core n ((s.take (List.replicate n (.advance tag)) tag).putEngine (wrap e)) =
      .next ((s.take [] tag).finish r) := by
  have hstep : ∀ e ms, step ((s.take (.advance tag :: ms) tag).putEngine (wrap e)) =
      ((s.take ms tag).putEngine (wrap e)).afterEngine wrap (tick e) :=
    fun e ms => hsteps ((s.take ms tag).putEngine (wrap e)) e rfl (Table.get_put_same _ _ _)
  refine run_advances (Inv := fun _ => True) (during := fun e ms => (s.take ms tag).putEngine (wrap e))
    (after := fun _ r => (s.take [] tag).finish r) (fun e e' ms _ hk => ⟨trivial, ?_⟩) (fun e e' r _ hk => ?_) h trivial
  · rw [hstep, hk]
    simp only [State.afterEngine, State.putEngine_putEngine]
  · rw [hstep, hk]
    simp only [State.afterEngine, State.answer_ok, State.putEngine_finish]

/-- A command that starts an engine ends as the transaction does, where the engine's steps end with the transaction's response. -/
theorem TransactionIsStepwise.of_engine {σ : Type} {wrap : σ → Engine} {tick : σ → Tick σ} {n : Nat} {e e' : σ} {r : Response}
    (hsteps : StepsAs s.cfg wrap tick) (hends : Tick.Ends tick n e e' r)
    (hstart : ∀ ms, (s.take ms tag).startCommand c = .next ((s.take ms tag).putEngine (wrap e)))
    (hrun : (s.take [] tag).runCommand c = (s.take [] tag).answer (.ok r)) : TransactionIsStepwise s tag c :=
  .of_advances hstart (run_advances_engine hsteps hends) (hrun.trans (State.answer_ok _ r))

theorem crc32_isStepwise {crcIn : Word32} {data : Buffer} (hb : s.tagBusy tag = false)
    (hd : decode (.command c) = .ok (.crc32 crcIn data, rest)) : TransactionIsStepwise s tag c := by
  obtain ⟨n, c', hends⟩ := Crc.ends_fold (Crc.start crcIn data)
  exact .of_engine (crc_stepsAs s.cfg) hends (fun ms => by simp [State.startCommand, hb, hd]) (State.runCommand_eq hb hd)

theorem compress_isStepwise {mode : Word32} {data : Buffer} (hb : s.tagBusy tag = false)
    (hd : decode (.command c) = .ok (.compress mode data, rest)) : TransactionIsStepwise s tag c := by
  obtain ⟨r, hr⟩ := compressResponse_ok s.cfg mode data
  obtain ⟨n, c', hends⟩ := Comp.ends_of_runAll hr
  exact .of_engine (comp_stepsAs s.cfg) hends (fun ms => by simp [State.startCommand, hb, hd])
    ((State.runCommand_eq hb hd).trans (congrArg (s.take [] tag).answer hr))

theorem decompress_isStepwise {data : Buffer} (hb : s.tagBusy tag = false)
    (hd : decode (.command c) = .ok (.decompress data, rest)) : TransactionIsStepwise s tag c := by
  obtain ⟨r, hr⟩ := Dec.runAll_start_ok s.cfg .decompress data
  obtain ⟨n, d', hends⟩ := Dec.ends_of_runAll hr
  exact .of_engine (dec_stepsAs s.cfg) hends (fun ms => by simp [State.startCommand, hb, hd])
    ((State.runCommand_eq hb hd).trans (congrArg (s.take [] tag).answer hr))

theorem parseHeader_isStepwise {data : Buffer} (hb : s.tagBusy tag = false)
    (hd : decode (.command c) = .ok (.parseHeader data, rest)) : TransactionIsStepwise s tag c := by
  obtain ⟨r, hr⟩ := Dec.runAll_start_ok s.cfg .parseHeader data
  obtain ⟨n, d', hends⟩ := Dec.ends_of_runAll hr
  exact .of_engine (dec_stepsAs s.cfg) hends (fun ms => by simp [State.startCommand, hb, hd])
    ((State.runCommand_eq hb hd).trans (congrArg (s.take [] tag).answer hr))

/-! ### LEX_NEXT -/

/-- A lexer's `LEX_NEXT` takes its steps under a tag that nothing else uses: its registers are put back at each, and the last ends the
command (R30, R88). -/
theorem run_advances_lexer {id n : Nat} {l l' : Lexer} {r : Response} (hb : s.tagBusy tag = false) (hl : l.sound = true)
    (htag : l.scanTag = some tag) (h : Tick.Ends (Lexer.tick s.cfg) n l l' r) :
    Host.Core.run Sys2Proof.core n ((s.take (List.replicate n (.advance tag)) tag).putLexer id l) =
      .next (((s.take [] tag).putLexer id l').finish r) := by
  obtain ⟨hengine, hscan⟩ := State.tagBusy_eq_false.mp hb
  have hstep : ∀ (l : Lexer) ms, l.sound = true → l.scanTag = some tag →
      step ((s.take (.advance tag :: ms) tag).putLexer id l) = ((s.take ms tag).putLexer id l).afterLexer id (l.tick s.cfg) :=
    fun l ms hl htag => State.advance_lexer (s := (s.take ms tag).putLexer id l) hengine (findRun_put hscan htag) hl
  refine run_advances (Inv := fun l => l.sound = true ∧ l.scanTag = some tag) (during := fun l ms => (s.take ms tag).putLexer id l)
    (after := fun l r => ((s.take [] tag).putLexer id l).finish r) (fun l l' ms hinv hk => ?_) (fun l l' r hinv hk => ?_) h ⟨hl, htag⟩
  · obtain ⟨run, hr, -⟩ := Option.map_eq_some_iff.mp hinv.2
    have hsafe := Lexer.tick_safe s.cfg hinv.1 hr
    rw [hk] at hsafe
    refine ⟨⟨hsafe.1, (Lexer.tick_scanTag hk).trans hinv.2⟩, ?_⟩
    rw [hstep l ms hinv.1 hinv.2, hk]
    simp only [State.afterLexer, State.putLexer_putLexer]
  · rw [hstep l [] hinv.1 hinv.2, hk]
    simp only [State.afterLexer, State.answer_ok, State.putLexer_putLexer]

theorem lexNext_isStepwise {id : Nat} (hs : s.Sound) (hb : s.tagBusy tag = false)
    (hd : decode (.command c) = .ok (.lexNext id, rest)) : TransactionIsStepwise s tag c := by
  have hstart : ∀ ms, (s.take ms tag).startCommand c = (s.take ms tag).startNext id :=
    fun ms => by simp [State.startCommand, hb, hd]
  have hrun : (s.take [] tag).runCommand c = execLexNext id (s.take [] tag) := State.runCommand_eq hb hd
  by_cases hidle : ∃ l, s.hasLexer id l ∧ l.nextResponse = none
  · obtain ⟨l, ⟨hl, hr⟩, hn⟩ := hidle
    obtain ⟨l', r, htoken, -⟩ := Lexer.nextToken_ok s.cfg tag (hs.lexer hl).1 hr
    have hall := htoken
    simp only [Lexer.nextToken, hn] at hall
    obtain ⟨n, hends⟩ := Lexer.ends_of_runAll hall
    refine .of_advances (during := fun ms => (s.take ms tag).putLexer id (l.beginNext tag)) (fun ms => ?_)
      (run_advances_lexer (id := id) hb (Lexer.beginNext_sound tag (hs.lexer hl).1 hn) rfl hends) ?_
    · rw [hstart, State.startNext, State.onLexer_eq (s := s.take ms tag) _ hl hr]
      simp only [hn, State.take_focus]
    · rw [hrun, execLexNext, State.onLexer_eq (s := s.take [] tag) _ hl hr]
      simp only [State.take_cfg, State.take_focus, htoken, State.answer_ok]
  · refine .of_start ?_
    rw [hstart, hrun]
    refine State.onLexer_congr fun l hl hr => ?_
    cases hn : l.nextResponse with
    | none => exact (hidle ⟨l, ⟨hl, hr⟩, hn⟩).elim
    | some r =>
      simp only [Lexer.nextToken, hn]
      rw [State.putLexer_get (hs.take _ _) hl]

/-! ### Every command -/

theorem command_isStepwise {i : Instr} (hs : s.Sound) (hb : s.tagBusy tag = false) (hd : decode (.command c) = .ok (i, rest)) :
    TransactionIsStepwise s tag c := by
  have hplace : i.place = .command := decode_place hd
  cases i
  case crc32 => exact crc32_isStepwise hb hd
  case compress => exact compress_isStepwise hb hd
  case decompress => exact decompress_isStepwise hb hd
  case parseHeader => exact parseHeader_isStepwise hb hd
  case lexNext => exact lexNext_isStepwise hs hb hd
  case lexOpen | lexSkip | lexClose => exact .of_start (by simp [State.startCommand, State.runCommand, hb, hd])
  all_goals cases hplace

end

/-- Settles O7, by cases on the command: its engine takes the same steps as the loop of the transaction, or its start is the whole
command. -/
theorem transactionEqualsStepByStep : Obligations.TransactionEqualsStepByStep := by
  intro s tag c hinv hb
  cases hd : decode (.command c) with
  | error e => exact TransactionIsStepwise.of_start (by simp [State.startCommand, State.runCommand, hb, hd])
  | ok p => exact command_isStepwise (State.inv_iff.mp hinv) hb hd

end Sys2Proof.Machine
end

section
/-! SUPPORT. The reference body as numbers (30_encoding.md rules R77, R78), what the decoder answers on the command port (rule R90), what
returns a token's record (rule R88), and what a step does on each of the host's moves (log entry 2). -/

namespace Sys2Proof

/-! ### Reference bodies -/

/-- The offset is the high byte's 8 bits above the low byte's upper 4 (R77). -/
theorem refOffset_toNat (b0 b1 : Byte) : (refOffset b0 b1).toNat = b0.toNat * 16 + b1.toNat / 16 := by
  have hnibble : (b1.extractLsb' 4 4).toNat = b1.toNat / 16 := by
    rw [BitVec.extractLsb'_toNat, Nat.shiftRight_eq_div_pow]
    omega
  rw [refOffset, BitVec.toNat_append, hnibble, ← Nat.shiftLeft_add_eq_or_of_lt (by omega), Nat.shiftLeft_eq]

/-- The length code is the low byte's lower 4 bits (R77). -/
theorem refCode_toNat (b1 : Byte) : (refCode b1).toNat = b1.toNat % 16 := by
  simp [refCode, BitVec.extractLsb'_toNat]

/-- The two bytes written as numbers give back the offset, upper 8 bits first (R77). -/
theorem refOffset_ofNat (off : Off12) (code : BitVec 4) :
    refOffset (BitVec.ofNat 8 (off.toNat / 16)) (BitVec.ofNat 8 (off.toNat % 16 * 16 + code.toNat)) = off := by
  apply BitVec.eq_of_toNat_eq
  rw [refOffset_toNat, BitVec.toNat_ofNat, BitVec.toNat_ofNat]
  omega

/-- The low byte written as a number gives back the code (R77). -/
theorem refCode_ofNat (off : Off12) (code : BitVec 4) :
    refCode (BitVec.ofNat 8 (off.toNat % 16 * 16 + code.toNat)) = code := by
  apply BitVec.eq_of_toNat_eq
  rw [refCode_toNat, BitVec.toNat_ofNat]
  omega

/-- Behind a control bit of 1 the two bytes are the EOS where their offset is the write cursor, and a reference elsewhere (R79). -/
theorem decode_reference (wcur : Off12) (b0 b1 : Byte) (rest : Buffer) :
    decode (.body true wcur (b0 :: b1 :: rest)) =
      .ok (if refOffset b0 b1 = wcur then .eos (refOffset b0 b1) (refCode b1) else .ref (refOffset b0 b1) (refCode b1), rest) := rfl

/-! ### The command port -/

/-- A host command's operands are of its fields' types and need no check. -/
theorem Instr.wf_of_command {i : Instr} (h : i.place = .command) : i.wf = true := by
  cases i
  case crc32 | compress | decompress | parseHeader | lexOpen | lexNext | lexSkip | lexClose => rfl
  all_goals cases h

/-- A code outside 0x01 to 0x08 is no command (R90, U1). -/
theorem decode_unknown_command {c : HostCommand} (h : c.code = 0 ∨ 8 < c.code.toNat) :
    decode (.command c) = .error (.notACommand c.code) := by
  have hcode : c.code.toNat = 0 ∨ 8 < c.code.toNat := h.imp_left fun h0 => by rw [h0]; rfl
  have hnone : decodeCommand c = .error (.notACommand c.code) := by
    unfold decodeCommand
    split
    case h_9 => rfl
    all_goals omega
  simp only [decode, hnone, Except.map]

end Sys2Proof

namespace Sys2Proof.Machine

theorem State.runCommand_refused {s : State} {c : HostCommand} {e : Reject} (hb : s.tagBusy s.focus = false)
    (hd : decode (.command c) = .error e) : s.runCommand c = .refused (refusalOf e) := by
  simp [State.runCommand, hb, hd]

theorem State.runCommand_next {s t : State} {c : HostCommand} (h : s.runCommand c = .next t) :
    s.tagBusy s.focus = false ∧ ∃ i rest, decode (.command c) = .ok (i, rest) ∧ exec i s = .next t := by
  unfold State.runCommand at h
  split at h
  · cases h
  · rename_i hb
    split at h
    · cases h
    · rename_i i rest hd
      exact ⟨by simpa using hb, i, rest, hd, h⟩

/-! ### The record of a token found -/

/-- The record of a token found is returned and ends the `LEX_NEXT` (R30, R88). -/
theorem Lexer.deliver_found {l : Lexer} {r : LexRun} {rec : Record} (hr : l.run = some r) (hrec : r.result = some rec) (t : Token) :
    l.deliver t = .done l.endNext (.ok (.token t)) := by
  simp [Lexer.deliver, hr, hrec]

/-- An element whose effect ends the `LEX_NEXT` in focus leaves the lexer it ends with, and the host gets the response. -/
theorem State.onScan_done {s : State} {id : Nat} {l l' : Lexer} {r : Response} {f : Lexer → Tick Lexer}
    (hfind : findRun s.lexers s.focus = some (id, l)) (hf : f l = .done l' r) :
    s.onScan f = .next ((s.putLexer id l').finish r) := by
  rw [State.onScan_eq f hfind, hf]
  exact State.answer_ok _ r

/-! ### The host's moves -/

section
variable {s : State} {tag : Nat} {c : HostCommand} {rest : List HostMove}

theorem step_of_no_move (h : s.moves = []) : step s = .next s := by
  simp only [step, State.move, h]

theorem step_of_run (h : s.moves = .run tag c :: rest) : step s = (s.take rest tag).runCommand c := by
  simp only [step, State.move, h]

theorem step_of_start (h : s.moves = .start tag c :: rest) : step s = (s.take rest tag).startCommand c := by
  simp only [step, State.move, h]

theorem step_of_advance (h : s.moves = .advance tag :: rest) : step s = (s.take rest tag).advance := by
  simp only [step, State.move, h]

end

end Sys2Proof.Machine
end

section
/-! CERTIFICATES. The responses a step adds (30_encoding.md rule R91) and the parameters, which nothing changes (00_scope.md rule R6). -/

namespace Sys2Proof.Machine

/-- What the host sees between responses: the parameters and the responses it has received are the same. -/
structure State.SameRecord (s u : State) : Prop where
  cfg : u.cfg = s.cfg
  responses : u.responses = s.responses

namespace State.SameRecord

theorem refl (s : State) : s.SameRecord s := ⟨rfl, rfl⟩
theorem take (s : State) (rest : List HostMove) (tag : Nat) : s.SameRecord (s.take rest tag) := ⟨rfl, rfl⟩
theorem putEngine (s : State) (e : Engine) : s.SameRecord (s.putEngine e) := ⟨rfl, rfl⟩
theorem putLexer (s : State) (id : Nat) (l : Lexer) : s.SameRecord (s.putLexer id l) := ⟨rfl, rfl⟩
theorem dropLexer (s : State) (id : Nat) : s.SameRecord (s.dropLexer id) := ⟨rfl, rfl⟩
theorem openLexer (s : State) (l : Lexer) : s.SameRecord (s.openLexer l) := ⟨rfl, rfl⟩

theorem trans {s u v : State} (h : s.SameRecord u) (h' : u.SameRecord v) : s.SameRecord v :=
  ⟨h'.cfg.trans h.cfg, h'.responses.trans h.responses⟩

end State.SameRecord

/-- What an instruction or a stage does to the host's record: nothing, or it ends the command in focus with its one response. -/
inductive State.Answers (s : State) : State → Prop where
  | silent {u : State} (h : s.SameRecord u) : Answers s u
  | reply {u : State} (h : s.SameRecord u) (r : Response) : Answers s (u.finish r)

namespace State.Answers

variable {s t u : State}

theorem of_answer {r : Except Fault Response} (h : s.SameRecord u) (ha : u.answer r = .next t) : s.Answers t := by
  obtain ⟨v, -, rfl⟩ := State.answer_next.mp ha
  exact .reply h v

theorem of_afterEngine {σ : Type} {wrap : σ → Engine} {k : Tick σ} (h : s.afterEngine wrap k = .next t) : s.Answers t := by
  obtain ⟨e, -, rfl⟩ | ⟨e, r, -, rfl⟩ := State.afterEngine_next h
  · exact .silent (.putEngine s _)
  · exact .reply (.refl s) r

theorem of_onDec {f : Dec → Tick Dec} (h : s.onDec f = .next t) : s.Answers t := by
  obtain ⟨d, -, ⟨d', -, rfl⟩ | ⟨d', r, -, rfl⟩⟩ := State.onDec_next h
  · exact .silent (.putEngine s _)
  · exact .reply (.refl s) r

theorem of_onScan {f : Lexer → Tick Lexer} (h : s.onScan f = .next t) : s.Answers t := by
  obtain ⟨id, l, -, ⟨l', -, rfl⟩ | ⟨l', r, -, rfl⟩⟩ := State.onScan_next h
  · exact .silent (.putLexer s id l')
  · exact .reply (.putLexer s id l') r

/-! #### Instructions -/

theorem of_execLexNext {id : Nat} (h : execLexNext id s = .next t) : s.Answers t := by
  obtain ⟨l, -, -, hl⟩ := State.onLexer_next h
  cases hn : l.nextToken s.cfg s.focus with
  | error f => simp only [hn, reduceCtorEq] at hl
  | ok p =>
    simp only [hn] at hl
    exact of_answer (.putLexer s id p.1) hl

theorem of_execLexSkip {id : Nat} {n : Int} (h : execLexSkip id n s = .next t) : s.Answers t := by
  obtain ⟨l, -, -, hl⟩ := State.onLexer_next h
  exact of_answer (.putLexer s id (l.skip n).1) hl

theorem of_execLexClose {id : Nat} (h : execLexClose id s = .next t) : s.Answers t := by
  obtain ⟨l, -, -, hl⟩ := State.onLexer_next h
  cases hl
  exact .reply (.dropLexer s id) _

theorem of_exec_command {i : Instr} (hi : i.place = .command) (h : exec i s = .next t) : s.Answers t := by
  cases i
  case crc32 crcIn data => exact of_answer (r := .ok (.ok (.word (crc crcIn data)))) (.refl s) h
  case compress mode data => exact of_answer (r := compressResponse s.cfg mode data) (.refl s) h
  case decompress data => exact of_answer (r := decompressResponse s.cfg data) (.refl s) h
  case parseHeader data => exact of_answer (r := parseHeaderResponse s.cfg data) (.refl s) h
  case lexOpen data =>
    cases h
    exact .reply (.openLexer s (Lexer.opened data)) _
  case lexNext id => exact of_execLexNext h
  case lexSkip id n => exact of_execLexSkip h
  case lexClose id => exact of_execLexClose h
  all_goals cases hi

theorem of_exec {i : Instr} (h : exec i s = .next t) : s.Answers t := by
  cases hp : i.place with
  | command => exact of_exec_command hp h
  | header | control | body => exact of_onDec (exec_stream (by rw [hp]; rfl) s ▸ h)
  | record | rtf => exact of_onScan (exec_scan (by rw [hp]; rfl) s ▸ h)

/-! #### The host's moves -/

theorem of_runCommand {c : HostCommand} (h : s.runCommand c = .next t) : s.Answers t := by
  obtain ⟨-, i, rest, -, hi⟩ := State.runCommand_next h
  exact of_exec hi

theorem of_startNext {id : Nat} (h : s.startNext id = .next t) : s.Answers t := by
  obtain ⟨l, -, -, hl⟩ := State.onLexer_next h
  cases hn : l.nextResponse with
  | some r =>
    simp only [hn] at hl
    exact of_answer (.refl s) hl
  | none =>
    simp only [hn] at hl
    cases hl
    exact .silent (.putLexer s id _)

theorem of_startCommand {c : HostCommand} (h : s.startCommand c = .next t) : s.Answers t := by
  unfold State.startCommand at h
  split at h
  · cases h
  · split at h
    case h_1 => cases h
    case h_6 => exact of_startNext h
    case h_7 => exact of_exec h
    all_goals
      cases h
      exact .silent (.putEngine s _)

theorem of_rejected {c : Code} {e : Reject} (h : s.rejected c e = .next t) : s.Answers t := by
  cases c with
  | record | command => cases h
  | rtf => exact of_onScan h
  | header | control | body => exact of_answer (.refl s) ((State.rejected_stream rfl s e).symm.trans h)

theorem of_innerStage (h : s.innerStage = .next t) : s.Answers t := by
  unfold State.innerStage at h
  split at h
  case h_4 => cases h
  all_goals exact of_afterEngine h

theorem of_advance (h : s.advance = .next t) : s.Answers t := by
  unfold State.advance at h
  split at h
  · cases h
  · cases h
  · exact of_innerStage h
  · split at h
    · exact of_rejected h
    · exact of_exec h

theorem of_take {ms : List HostMove} {tag : Nat} (h : (s.take ms tag).Answers t) : s.Answers t := by
  cases h with
  | silent h => exact .silent ((State.SameRecord.take s ms tag).trans h)
  | reply h r => exact .reply ((State.SameRecord.take s ms tag).trans h) r

/-- A step leaves the record or ends the command in focus, whatever the host's move. -/
theorem of_step (h : step s = .next t) : s.Answers t := by
  cases hm : s.moves with
  | nil =>
    cases (step_of_no_move hm).symm.trans h
    exact .silent (.refl s)
  | cons m ms =>
    cases m with
    | run tag c => exact of_take (of_runCommand ((step_of_run hm).symm.trans h))
    | start tag c => exact of_take (of_startCommand ((step_of_start hm).symm.trans h))
    | advance tag => exact of_take (of_advance ((step_of_advance hm).symm.trans h))

theorem cfg_eq (h : s.Answers t) : t.cfg = s.cfg := by
  cases h with
  | silent h => exact h.cfg
  | reply h r => exact h.cfg

theorem responses_eq (h : s.Answers t) : t.responses = s.responses ∨ ∃ r, t.responses = s.responses ++ [(t.focus, r)] := by
  cases h with
  | silent h => exact .inl h.responses
  | reply h r => exact .inr ⟨r, by rw [State.finish_responses, State.finish_focus, h.responses]⟩

end State.Answers

/-- Settles O12: a step leaves the host's record or ends the command in focus, and an ended command adds one response. -/
theorem stepAddsAtMostOneResponse : Obligations.StepAddsAtMostOneResponse :=
  fun _ _ h => ⟨(State.Answers.of_step h).cfg_eq, (State.Answers.of_step h).responses_eq⟩

end Sys2Proof.Machine
end

section
/-! CERTIFICATES. Encoding (30_encoding.md): the reference body (rules R77 to R79), the host command on the port (rule R90) and the
token record at the end of a `LEX_NEXT` (rule R88). -/

namespace Sys2Proof.Machine

/-- Settles O3: the two bytes as numbers give back offset and code, and the decoder compares the offset with the cursor. -/
theorem referenceBodyLayout : Obligations.ReferenceBodyLayout := by
  intro wcur off code rest
  rw [decode_reference, refOffset_ofNat, refCode_ofNat]

/-- Settles O5: a step on a run move is the command's transaction, which executes what the decoder reads or refuses what it rejects. -/
theorem stepRunsTheDecodedCommand : Obligations.StepRunsTheDecodedCommand := by
  refine fun s => ⟨step_of_no_move, fun tag c rest hm hb => ⟨fun i bs hd => ⟨?_, ?_⟩, fun hc => ?_⟩⟩
  · exact Instr.wf_of_command (decode_place hd)
  · exact (step_of_run hm).trans (State.runCommand_eq hb hd)
  · exact (step_of_run hm).trans (State.runCommand_refused hb (decode_unknown_command hc))

/-- Settles O60: each record delivers its token from the lexer in focus, the END record from one it has made EXHAUSTED. -/
theorem tokenRecordsEndTheCommand : Obligations.TokenRecordsEndTheCommand := by
  intro s id l r rec hfind hrun hrec
  have hdeliver : ∀ t, s.onScan (Lexer.deliver t) = .next ((s.putLexer id { l with run := none }).finish (.ok (.token t))) :=
    fun t => State.onScan_done hfind (Lexer.deliver_found hrun hrec t)
  refine ⟨?_, fun b => hdeliver (.group b), fun c => hdeliver (.controlSymbol c), fun kw p => hdeliver (.controlWord kw p),
    fun bs => hdeliver (.text bs)⟩
  exact State.onScan_done (f := Lexer.deliverEnd) hfind
    (Lexer.deliver_found (l := { l with state := .exhausted }) hrun hrec .endOfStream)

end Sys2Proof.Machine
end

section
/-! SUPPORT. The CRC (40_crc32.md rules R101 to R103): the table read is the generation loop, a byte's step is eight shifts of the loop,
and so a step and a fold lose nothing of the running value. -/

namespace Sys2Proof.Machine

/-! ### The generation loop, bit by bit (R101) -/

/-- The polynomial has its top bit set and a shifted value has not, so the top bit tells which way the loop went. -/
theorem crcShift_msb (c : Word32) : (crcShift c).getLsbD 31 = c.getLsbD 0 := by
  unfold crcShift
  cases c.getLsbD 0 <;> simp

theorem crcShift_injective : Function.Injective crcShift := by
  intro a b h
  have hlow : a.getLsbD 0 = b.getLsbD 0 := by rw [← crcShift_msb a, h, crcShift_msb]
  have hhigh : a >>> 1 = b >>> 1 := by
    simp only [crcShift, hlow] at h
    split at h
    · exact (BitVec.xor_left_inj _).mp h
    · exact h
  refine BitVec.eq_of_getLsbD_eq fun i _ => ?_
  cases i with
  | zero => exact hlow
  | succ i => simpa [BitVec.getLsbD_ushiftRight, Nat.add_comm] using congrArg (·.getLsbD i) hhigh

theorem crcShift_xor_of_even (x : Word32) {y : Word32} (hy : y.getLsbD 0 = false) :
    crcShift (x ^^^ y) = crcShift x ^^^ (y >>> 1) := by
  simp only [crcShift, BitVec.getLsbD_xor, hy, Bool.xor_false, BitVec.ushiftRight_xor_distrib]
  split <;> ac_rfl

/-- Bits above the `n` lowest only move down in `n` shifts. -/
theorem crcShift_iterate_xor (n : Nat) (x : Word32) {y : Word32} (hy : ∀ i < n, y.getLsbD i = false) :
    crcShift^[n] (x ^^^ y) = crcShift^[n] x ^^^ (y >>> n) := by
  induction n generalizing x y with
  | zero => simp
  | succ n ih =>
    have hshift : ∀ i < n, (y >>> 1).getLsbD i = false := fun i hi => by
      rw [BitVec.getLsbD_ushiftRight]
      exact hy (1 + i) (by omega)
    rw [Function.iterate_succ_apply, Function.iterate_succ_apply, crcShift_xor_of_even x (hy 0 (by omega)), ih _ hshift,
      ← BitVec.shiftRight_add, Nat.add_comm 1 n]

theorem crcEntry_eq_iterate (n : Nat) : crcEntry n = crcShift^[8] (BitVec.ofNat 32 n) := rfl

/-! ### One byte (R101, R102) -/

/-- `CRC_TABLE` holds what the generation loop gives (R101, D11). -/
theorem crcTable_eq_loop : crcTable = (List.range 256).map crcEntry := by decide +kernel

theorem crcTable_getD {n : Nat} (h : n < 256) : crcTable.getD n 0 = crcEntry n := by
  simp [crcTable_eq_loop, List.getD_eq_getElem?_getD, h]

theorem crcStep_eq_entry (c : Word32) (b : Byte) :
    crcStep c b = crcEntry ((c ^^^ b.setWidth 32).toNat % 256) ^^^ (c >>> 8) := by
  rw [crcStep, BitVec.extractLsb'_toNat, Nat.shiftRight_zero, crcTable_getD (Nat.mod_lt _ (by decide))]

/-- The low byte of a word, the index R102 reads the table at, as a word. -/
def lowByte (x : Word32) : Word32 := BitVec.ofNat 32 (x.toNat % 256)

theorem getLsbD_lowByte (x : Word32) (i : Nat) : (lowByte x).getLsbD i = (decide (i < 8) && x.getLsbD i) := by
  rw [lowByte, BitVec.getLsbD_ofNat, show 256 = 2 ^ 8 from rfl, Nat.testBit_mod_two_pow, BitVec.testBit_toNat, ← Bool.and_assoc,
    ← Bool.decide_and, decide_eq_decide.mpr (show i < 32 ∧ i < 8 ↔ i < 8 by omega)]

/-- Eight shifts of a word: its low byte becomes its table entry, and the rest moves down. -/
theorem crcShift_iterate_eight (x : Word32) : crcShift^[8] x = crcEntry (x.toNat % 256) ^^^ (x >>> 8) := by
  have hlow : ∀ i < 8, (lowByte x ^^^ x).getLsbD i = false := fun i hi => by simp [getLsbD_lowByte, hi]
  have hrest : (lowByte x ^^^ x) >>> 8 = x >>> 8 := BitVec.eq_of_getLsbD_eq fun i _ => by
    simp [BitVec.getLsbD_ushiftRight, getLsbD_lowByte]
  calc crcShift^[8] x = crcShift^[8] (lowByte x ^^^ (lowByte x ^^^ x)) := by
        rw [← BitVec.xor_assoc, BitVec.xor_self, BitVec.zero_xor]
    _ = crcShift^[8] (lowByte x) ^^^ ((lowByte x ^^^ x) >>> 8) := crcShift_iterate_xor 8 (lowByte x) hlow
    _ = crcEntry (x.toNat % 256) ^^^ (x >>> 8) := by rw [hrest, crcEntry_eq_iterate, lowByte]

/-- A byte's step is eight shifts of the running value with the byte put in (R102). -/
theorem crcStep_eq_iterate (c : Word32) (b : Byte) : crcStep c b = crcShift^[8] (c ^^^ b.setWidth 32) := by
  have hrest : (c ^^^ b.setWidth 32) >>> 8 = c >>> 8 := BitVec.eq_of_getLsbD_eq fun i _ => by
    simp [BitVec.getLsbD_ushiftRight]
  rw [crcStep_eq_entry, crcShift_iterate_eight, hrest]

theorem byte_setWidth_leftInverse : Function.LeftInverse (BitVec.setWidth 8) (BitVec.setWidth 32 : Byte → Word32) := fun b => by
  rw [BitVec.setWidth_setWidth_of_le b (by decide), BitVec.setWidth_eq]

theorem crcStep_injective_value (b : Byte) : Function.Injective (crcStep · b) := by
  intro c c' h
  simp only [crcStep_eq_iterate] at h
  exact (BitVec.xor_left_inj _).mp (crcShift_injective.iterate 8 h)

theorem crcStep_injective_byte (c : Word32) : Function.Injective (crcStep c) := by
  intro b b' h
  simp only [crcStep_eq_iterate] at h
  exact byte_setWidth_leftInverse.injective ((BitVec.xor_right_inj c).mp (crcShift_injective.iterate 8 h))

/-! ### The fold (R103) -/

theorem crc_cons (c : Word32) (b : Byte) (bs : Buffer) : crc c (b :: bs) = crc (crcStep c b) bs := rfl

/-- The fold is incremental (R103). -/
theorem crc_append (c : Word32) (as bs : Buffer) : crc c (as ++ bs) = crc (crc c as) bs := List.foldl_append

theorem crc_injective (bs : Buffer) : Function.Injective (crc · bs) := by
  induction bs with
  | nil => exact fun _ _ h => h
  | cons b bs ih => exact ih.comp (crcStep_injective_value b)

/-- A change of one byte of a sequence changes its CRC: the bytes before it give the same value, and nothing after it undoes the
difference. -/
theorem crc_modify_ne (c : Word32) {p : Buffer} {i : Nat} {f : Byte → Byte} (hi : i < p.length) (hf : f p[i] ≠ p[i]) :
    crc c (p.modify i f) ≠ crc c p := by
  have hsplit : p = p.take i ++ p[i] :: p.drop (i + 1) := by simp
  intro h
  rw [List.modify_eq_take_cons_drop hi, crc_append, crc_cons] at h
  conv at h => rhs; rw [hsplit, crc_append, crc_cons]
  exact hf (crcStep_injective_byte _ (crc_injective _ h))

theorem xor_bit_ne (b : Byte) {j : Nat} (hj : j < 8) : b ^^^ (1#8 <<< j) ≠ b := by
  intro h
  have hbit := congrArg (·.getLsbD j) h
  simp [hj] at hbit

end Sys2Proof.Machine
end

section
/-! CERTIFICATES. The CRC engine (40_crc32.md): the command (rule R105) and the detection of single-bit changes (rule R106). -/

namespace Sys2Proof.Machine

/-- Settles O17: the command ends with the fold of `crcStep`, and each of its steps is the entry of the loop. -/
theorem crc32FoldsEveryByte : Obligations.Crc32FoldsEveryByte := by
  intro crcIn data s
  have hexec : exec (.crc32 crcIn data) s = .next (s.finish (.ok (.word (crc crcIn data)))) :=
    State.answer_ok s (.ok (.word (crc crcIn data)))
  simp only [hexec, crc, ← crcStep_eq_entry]

/-- Settles O18: a flipped bit changes its byte, and a changed byte changes the CRC. -/
theorem crcDetectsEverySingleBitFlip : Obligations.CrcDetectsEverySingleBitFlip :=
  fun c _ _ _ hi hj => crc_modify_ne c hi (xor_bit_ne _ hj)

end Sys2Proof.Machine
end

section
/-! SUPPORT. The dictionary unit (41_dictionary.md rules R110 to R113): the content of a fresh ring, and the cursor, the fill and the ring
after a sequence of pushes. -/

namespace Sys2Proof.Machine

/-! ### A fresh dictionary (R110) -/

/-- Cells numbered upwards from `k` read as the bytes they were made from, at every address from `k` on. -/
theorem Memory.read_zipIdx (bs : Buffer) {k a : Nat} (h : k ≤ a) :
    Memory.read ((bs.zipIdx k).map fun p => (p.2, p.1)) a = bs.getD (a - k) Memory.unlisted := by
  induction bs generalizing k with
  | nil => rfl
  | cons b bs ih =>
    simp only [List.zipIdx_cons, List.map_cons, Memory.read]
    split
    next hak => simp [hak]
    next hak =>
      obtain ⟨n, rfl⟩ := Nat.exists_eq_add_of_lt (Nat.lt_of_le_of_ne h (Ne.symm hak))
      rw [ih (by omega), show k + n + 1 - (k + 1) = n by omega, show k + n + 1 - k = n + 1 by omega, List.getD_cons_succ]

theorem seedRom_length : seedRom.length = seedLen := by decide +kernel

/-- A fresh dictionary reads as the seed, and as the unlisted byte beyond its end. -/
theorem Dict.read_new (o : Off12) : Dict.new.read o = seedRom.getD o.toNat Memory.unlisted :=
  Memory.read_zipIdx seedRom (Nat.zero_le _)

/-! ### The fill and the cursor (R111) -/

/-- A push counts the fill up to the size of the ring and no further. -/
theorem Dict.push_fill_toNat {d : Dict} (h : d.fill.toNat ≤ dictSize) (b : Byte) :
    (d.push b).fill.toNat = min dictSize (d.fill.toNat + 1) := by
  simp only [Dict.push_fill, dictSize] at h ⊢
  split <;> bv_omega

theorem Dict.pushAll_fill_toNat {d : Dict} (h : d.fill.toNat ≤ dictSize) (bs : Buffer) :
    (d.pushAll bs).fill.toNat = min dictSize (d.fill.toNat + bs.length) := by
  induction bs generalizing d with
  | nil => simp [h]
  | cons b bs ih =>
    have hb := Dict.push_fill_toNat h b
    rw [Dict.pushAll_cons, ih (by omega), hb, List.length_cons]
    omega

theorem Dict.pushAll_wcur (d : Dict) (bs : Buffer) : (d.pushAll bs).wcur = d.wcur + BitVec.ofNat 12 bs.length := by
  induction bs generalizing d with
  | nil => simp
  | cons b bs ih =>
    rw [Dict.pushAll_cons, ih, Dict.push_wcur, List.length_cons]
    bv_omega

/-! ### The ring (R111 to R113) -/

/-- A sequence of pushes leaves every position that the cursor does not pass as it was. -/
theorem Dict.read_pushAll_other {d : Dict} {bs : Buffer} {o : Off12} (h : ∀ i < bs.length, o ≠ d.wcur + BitVec.ofNat 12 i) :
    (d.pushAll bs).read o = d.read o := by
  induction bs generalizing d with
  | nil => rfl
  | cons b bs ih =>
    have hfirst : o ≠ d.wcur := by simpa using h 0 (Nat.zero_lt_succ _)
    have hrest : ∀ i < bs.length, o ≠ (d.push b).wcur + BitVec.ofNat 12 i := fun i hi => by
      have hne := h (i + 1) (Nat.succ_lt_succ hi)
      rw [Dict.push_wcur]
      bv_omega
    rw [Dict.pushAll_cons, ih hrest, Dict.read_push_other d b hfirst]

/-- Each of the last bytes pushed, as many as the ring holds, stands where the cursor was when it was pushed: the pushes after it
do not come round to its place. -/
theorem Dict.read_pushAll_at {d : Dict} (hwf : d.ring.wf = true) {bs : Buffer} {i : Nat} (hi : i < bs.length)
    (hlast : bs.length ≤ i + dictSize) : (d.pushAll bs).read (d.wcur + BitVec.ofNat 12 i) = bs[i] := by
  have hsplit : bs = bs.take i ++ bs[i] :: bs.drop (i + 1) := by simp
  have hcur : d.wcur + BitVec.ofNat 12 i = (d.pushAll (bs.take i)).wcur := by
    rw [Dict.pushAll_wcur, List.length_take_of_le hi.le]
  have hlater : ∀ j < (bs.drop (i + 1)).length,
      (d.pushAll (bs.take i)).wcur ≠ ((d.pushAll (bs.take i)).push bs[i]).wcur + BitVec.ofNat 12 j := fun j hj => by
    rw [List.length_drop] at hj
    rw [dictSize] at hlast
    rw [Dict.push_wcur]
    bv_omega
  calc (d.pushAll bs).read (d.wcur + BitVec.ofNat 12 i)
      = (((d.pushAll (bs.take i)).push bs[i]).pushAll (bs.drop (i + 1))).read (d.pushAll (bs.take i)).wcur := by
        rw [hcur, ← Dict.pushAll_cons, ← Dict.pushAll_append, ← hsplit]
    _ = ((d.pushAll (bs.take i)).push bs[i]).read (d.pushAll (bs.take i)).wcur := Dict.read_pushAll_other hlater
    _ = bs[i] := Dict.read_push_same (Dict.pushAll_wf hwf _) _

end Sys2Proof.Machine
end

section
/-! CERTIFICATES. The dictionary unit (41_dictionary.md): a fresh dictionary (rule R110), a push (rule R111) and the window after any
pushes (rules R110, R111, R114). -/

namespace Sys2Proof.Machine

/-- Settles O15: the ring by the reads after a push, the cursor and the fill by the width of their counters. -/
theorem pushWritesAtTheCursor : Obligations.PushWritesAtTheCursor := by
  intro d b hwf
  refine ⟨Dict.read_push_same hwf b, fun o ho => Dict.read_push_other d b ho, ?cursor, fun hfill => ?counts, fun hfill => ?full,
    Dict.push_wf hwf b⟩
  case cursor => rw [Dict.push_wcur, BitVec.toNat_add]; rfl
  case counts =>
    rw [Dict.push_fill_toNat hfill.le, dictSize]
    omega
  case full => simp [hfill]

/-- Settles O16: a fresh dictionary is canonical and its cursor and fill are 207, so it is an instance of the laws of `pushAll`. -/
theorem pushesFillTheWindow : Obligations.PushesFillTheWindow := by
  intro bs
  refine ⟨?cursor, Dict.pushAll_fill_toNat (by decide) bs, fun i hi hlast => ?window⟩
  case cursor => rw [Dict.pushAll_wcur, Dict.new, ← BitVec.ofNat_add, BitVec.toNat_ofNat]
  case window =>
    rw [BitVec.ofNat_add, List.getD_eq_getElem _ _ hi]
    exact Dict.read_pushAll_at Dict.new_wf hi hlast

/-- Settles O14: below 207 the ring reads as the seed, and from there on the seed has no byte. -/
theorem freshDictionaryContent : Obligations.FreshDictionaryContent := by
  refine ⟨fun o => ?_, rfl, rfl⟩
  rw [Dict.read_new]
  split
  next => rfl
  next hbeyond => exact List.getD_eq_default _ _ (seedRom_length.le.trans (Nat.le_of_not_lt hbeyond))

end Sys2Proof.Machine
end

section
/-! SUPPORT. The container header: its little-endian fields (20_memory.md rule R52), what the decoder reads of a container (30_encoding.md
rule R70, 42_header.md rules R121, R122), what each header does to a decompressor in `HEADER` (rules R122, R123, 44_decompressor.md rules
R162, R173), and a command that its first step ends. -/

namespace Sys2Proof

/-! ### The fields on the wire (R52, R70) -/

/-- A field's bytes read back, lowest index first, are the field (R52). -/
theorem le32_fieldBytes (v : Word32) :
    le32 (v.extractLsb' 0 8) (v.extractLsb' 8 8) (v.extractLsb' 16 8) (v.extractLsb' 24 8) = v := by
  have hadjacent : ∀ lo n : Nat, v.extractLsb' (lo + 8) n ++ v.extractLsb' lo 8 = v.extractLsb' lo (n + 8) := fun lo n =>
    BitVec.extractLsb'_append_extractLsb'_eq_extractLsb' rfl
  rw [le32, hadjacent 16 8, hadjacent 8 16, hadjacent 0 24, BitVec.extractLsb'_eq_self]

/-- Fewer than 16 bytes are no header (R121). -/
theorem decode_header_short {bs : Buffer} (h : bs.length < hdrLen) : decode (.header bs) = .error .tooShort := by
  rw [decode]
  unfold decodeHeader
  split
  next => simp only [List.length_cons, hdrLen] at h; omega
  next => rfl

/-- The header of a container is its four fields as they were written, and the payload stands after it (R70, R122). -/
theorem decode_container (cs rs ct crcVal : Word32) (payload : Buffer) :
    decode (.header (Machine.container cs rs ct crcVal payload)) = .ok (headerOf cs rs ct crcVal, payload) := by
  simp only [decode, Machine.container, headerBytes, le32Bytes, List.cons_append, List.nil_append, decodeHeader, le32_fieldBytes]

/-! ### The type tag (R71) -/

theorem headerOf_compressed (cs rs crcVal : Word32) : headerOf cs rs tagCompressed crcVal = .hdrLZFu cs rs crcVal := rfl

theorem headerOf_uncompressed (cs rs crcVal : Word32) : headerOf cs rs tagUncompressed crcVal = .hdrMELA cs rs crcVal := rfl

theorem headerOf_other {ct : Word32} (hc : ct ≠ tagCompressed) (hu : ct ≠ tagUncompressed) (cs rs crcVal : Word32) :
    headerOf cs rs ct crcVal = .hdrOther cs rs ct crcVal := by
  simp only [headerOf, hc, hu, if_false]

end Sys2Proof

namespace Sys2Proof.Machine

/-! ### What each header does (R122, R123, R162, R173) -/

section
variable {d : Dec} (hp : d.phase = .header) (cs rs crcVal : Word32)
include hp

/-- A `COMPRESSED` header ends a `PARSE_HEADER` with its fields (R123). -/
theorem Dec.headerLZFu_parseHeader (cfg : Config) (hc : d.cmd = .parseHeader) :
    d.headerLZFu cfg cs rs crcVal =
      .done (d.setHeader cs rs tagCompressed crcVal) (.ok (.header ⟨cs, rs, tagCompressed, crcVal⟩)) := by
  simp [Dec.headerLZFu, Dec.setHeader, hp, hc]

/-- A `COMPRESSED` header sets up the stream of a `DECOMPRESS` (R160, R162). -/
theorem Dec.headerLZFu_decompress (cfg : Config) (hc : d.cmd = .decompress) :
    d.headerLZFu cfg cs rs crcVal = (d.setHeader cs rs tagCompressed crcVal).setUp cfg rs := by
  simp [Dec.headerLZFu, Dec.setHeader, hp, hc]

/-- An `UNCOMPRESSED` header ends a `PARSE_HEADER` with its fields (R123). -/
theorem Dec.headerMELA_parseHeader (hc : d.cmd = .parseHeader) :
    d.headerMELA cs rs crcVal =
      .done (d.setHeader cs rs tagUncompressed crcVal) (.ok (.header ⟨cs, rs, tagUncompressed, crcVal⟩)) := by
  simp [Dec.headerMELA, Dec.setHeader, hp, hc]

/-- An `UNCOMPRESSED` header takes a `DECOMPRESS` to `DONE` (R173, R179). -/
theorem Dec.headerMELA_decompress (hc : d.cmd = .decompress) :
    d.headerMELA cs rs crcVal = .run { d.setHeader cs rs tagUncompressed crcVal with phase := .done } := by
  simp [Dec.headerMELA, Dec.setHeader, hp, hc]

/-- Any other type is an error to both commands (R122). -/
theorem Dec.headerOther_unknown (ct : Word32) :
    d.headerOther cs rs ct crcVal = .done (d.setHeader cs rs ct crcVal) (.err (.malformedHeader .unknownCompType)) := by
  simp [Dec.headerOther, hp]

end

/-- A declared size beyond `MAX_OUT` is refused before the stream is set up (R162, D18). -/
theorem Dec.setUp_overLimit {cfg : Config} {rs : Word32} (d : Dec) (h : cfg.maxOut < rs.toNat) :
    d.setUp cfg rs = .done d (.err (.inputTooLarge .outputLimit)) := if_pos h

/-! ### `DONE` (R173) -/

/-- In `DONE` a decompressor hands its result over. -/
theorem Dec.tick_done {d : Dec} {h : Header} (cfg : Config) (hp : d.phase = .done) (hh : d.hdr = some h) :
    d.tick cfg = .done d (.ok (.bytes (d.result h))) := by
  simp only [Dec.tick, Dec.next, Dec.inner, Dec.handOver, hp, hh]

/-- The result of an `UNCOMPRESSED` container is what stands after its header (R173). -/
theorem Dec.result_uncompressed (d : Dec) {h : Header} (hu : h.compType = tagUncompressed) : d.result h = d.inp.drop hdrLen :=
    if_pos hu

/-! ### The end of a command at a decompressor's step -/

/-- An element whose effect ends the command in focus: the host gets the response. -/
theorem State.onDec_done {s : State} {d d' : Dec} {r : Response} {f : Dec → Tick Dec}
    (hd : Table.get s.engines s.focus = some (.dec d)) (hf : f d = .done d' r) : s.onDec f = .next (s.finish r) := by
  rw [State.onDec_eq f hd, hf]
  exact State.answer_ok s r

/-- An element after which the command in focus goes on: its registers are kept. -/
theorem State.onDec_run {s : State} {d d' : Dec} {f : Dec → Tick Dec}
    (hd : Table.get s.engines s.focus = some (.dec d)) (hf : f d = .run d') : s.onDec f = .next (s.putEngine (.dec d')) := by
  rw [State.onDec_eq f hd, hf]
  rfl

/-- A step that ends the command in focus: the host gets the response. -/
theorem State.advance_dec_done {s : State} {d d' : Dec} {r : Response} (hd : Table.get s.engines s.focus = some (.dec d))
    (hk : d.tick s.cfg = .done d' r) : s.advance = .next (s.finish r) := by
  rw [State.advance_dec hd, hk]
  exact State.answer_ok s r

/-! ### The first step of the two commands (R27, R160) -/

/-- The host command that runs each of the decompressor's two commands (R90). -/
def DCommand.instr : DCommand → Buffer → Instr
  | .decompress => .decompress
  | .parseHeader => .parseHeader

theorem exec_dCommand (cmd : DCommand) (data : Buffer) (s : State) :
    exec (cmd.instr data) s = s.answer (Dec.runAll s.cfg (Dec.bound data.length) (Dec.start cmd data)) := by
  cases cmd <;> rfl

/-- A command whose first step ends it answers with that step's response. -/
theorem exec_dCommand_of_done {cmd : DCommand} {data : Buffer} {s : State} {d : Dec} {r : Response}
    (h : (Dec.start cmd data).tick s.cfg = .done d r) : exec (cmd.instr data) s = .next (s.finish r) := by
  rw [exec_dCommand, Dec.bound, Dec.runAll_succ, h]
  exact State.answer_ok s r

/-- Too few bytes for a header end either command (R121). -/
theorem Dec.tick_start_short (cfg : Config) (cmd : DCommand) {data : Buffer} (h : data.length < hdrLen) :
    (Dec.start cmd data).tick cfg = .done (Dec.start cmd data) (.err (.malformedHeader .tooShort)) := by
  simp only [Dec.tick, Dec.next, Dec.start, decode_header_short h, tooFewBytes]

/-- On a container the first step is the effect of its header. -/
theorem Dec.tick_start_container (cfg : Config) (cmd : DCommand) (cs rs ct crcVal : Word32) (payload : Buffer) :
    (Dec.start cmd (container cs rs ct crcVal payload)).tick cfg =
      (Dec.start cmd (container cs rs ct crcVal payload)).apply cfg (headerOf cs rs ct crcVal) := by
  simp only [Dec.tick, Dec.next, Dec.start, decode_container]

/-- A container whose header ends the command: it answers with what the header does. -/
theorem exec_dCommand_of_header {cmd : DCommand} {cs rs ct crcVal : Word32} {payload : Buffer} {s : State} {i : Instr} {d : Dec}
    {r : Response} (hi : headerOf cs rs ct crcVal = i)
    (h : (Dec.start cmd (container cs rs ct crcVal payload)).apply s.cfg i = .done d r) :
    exec (cmd.instr (container cs rs ct crcVal payload)) s = .next (s.finish r) := by
  subst hi
  exact exec_dCommand_of_done ((Dec.tick_start_container ..).trans h)

end Sys2Proof.Machine
end

section
/-! CERTIFICATES. The header decoder (42_header.md rules R121 to R123) and the checks of a `DECOMPRESS` at its header (44_decompressor.md
rules R162, R173). -/

namespace Sys2Proof.Machine

/-- Settles O20: the decoder finds no header in fewer than 16 bytes, and the first step of either command reads one. -/
theorem shortContainersAreTooShort : Obligations.ShortContainersAreTooShort := by
  intro data s hshort
  have hboth : ∀ cmd : DCommand, exec (cmd.instr data) s = .next (s.raise (.malformedHeader .tooShort)) :=
    fun cmd => exec_dCommand_of_done (Dec.tick_start_short s.cfg cmd hshort)
  exact ⟨hboth .parseHeader, hboth .decompress⟩

/-- Settles O19: the first step reads the fields back from the container, and either known header ends a `PARSE_HEADER` with them. -/
theorem parseHeaderReturnsTheFields : Obligations.ParseHeaderReturnsTheFields := by
  intro cs rs ct crcVal payload s hct
  rcases hct with rfl | rfl
  · exact exec_dCommand_of_header (cmd := .parseHeader) (headerOf_compressed cs rs crcVal)
      (Dec.headerLZFu_parseHeader rfl cs rs crcVal s.cfg rfl)
  · exact exec_dCommand_of_header (cmd := .parseHeader) (headerOf_uncompressed cs rs crcVal)
      (Dec.headerMELA_parseHeader rfl cs rs crcVal rfl)

/-- Settles O21: an unknown type ends either command at its header, and a `DECOMPRESS` at its set-up where the declared size is over the
limit. -/
theorem headerFieldErrors : Obligations.HeaderFieldErrors := by
  intro cs rs ct crcVal payload s
  refine ⟨fun hc hu => ?unknown, fun hlimit => ?overLimit⟩
  case unknown =>
    have hboth : ∀ cmd : DCommand, exec (cmd.instr (container cs rs ct crcVal payload)) s =
        .next (s.raise (.malformedHeader .unknownCompType)) := fun cmd =>
      exec_dCommand_of_header (headerOf_other hc hu cs rs crcVal) (Dec.headerOther_unknown rfl cs rs crcVal ct)
    exact ⟨hboth .parseHeader, hboth .decompress⟩
  case overLimit =>
    exact exec_dCommand_of_header (cmd := .decompress) (headerOf_compressed cs rs crcVal)
      ((Dec.headerLZFu_decompress rfl cs rs crcVal s.cfg rfl).trans (Dec.setUp_overLimit _ hlimit))

/-- Settles O37: each header acts on the decompressor in focus, and in `DONE` the next step hands over what stands after the header. -/
theorem headersThatEndTheCommand : Obligations.HeadersThatEndTheCommand := by
  intro s d cs rs crcVal hd hp
  refine ⟨fun hc => ⟨?mela, fun t tag rest hm ht => ?handOver⟩, fun hc => ?parseLZFu, fun hc => ?parseMELA, fun ct => ?other⟩
  case mela => exact State.onDec_run hd (Dec.headerMELA_decompress hp cs rs crcVal hc)
  case handOver =>
    rw [step_of_advance hm, State.advance_dec_done ht (Dec.tick_done _ rfl rfl), Dec.result_uncompressed _ rfl]
  case parseLZFu => exact State.onDec_done hd (Dec.headerLZFu_parseHeader hp cs rs crcVal s.cfg hc)
  case parseMELA => exact State.onDec_done hd (Dec.headerMELA_parseHeader hp cs rs crcVal hc)
  case other => exact State.onDec_done hd (Dec.headerOther_unknown hp cs rs crcVal ct)

end Sys2Proof.Machine
end

section
/-! SUPPORT. The longest-match search (43_compressor.md rules R134 to R139): the ring a candidate is compared with, the length of its
match, and the search as a fold over its candidates. -/

namespace Sys2Proof.Machine

/-! ### A candidate's match (R136) -/

/-- The live ring a candidate is compared with after `i` upcoming bytes: those confirmed beyond the best so far have been pushed
(R136, D6). -/
def liveRing (d : Dict) (upcoming : Buffer) (best i : Nat) : Dict := d.pushAll ((upcoming.take i).drop best)

theorem liveRing_succ (d : Dict) {upcoming : Buffer} (best : Nat) {i : Nat} (hi : i < upcoming.length) :
    liveRing d upcoming best (i + 1) =
      if best < i + 1 then (liveRing d upcoming best i).push upcoming[i] else liveRing d upcoming best i := by
  have hdrop : (upcoming.take (i + 1)).drop best = (upcoming.take i).drop best ++ [upcoming[i]].drop (best - i) := by
    rw [List.take_succ_eq_append_getElem hi, List.drop_append, List.length_take_of_le hi.le]
  rw [liveRing, hdrop, Dict.pushAll_append]
  split
  next hbeats => rw [Nat.sub_eq_zero_of_le (Nat.le_of_lt_succ hbeats)]; rfl
  next hknown =>
    have hnone : [upcoming[i]].drop (best - i) = [] := List.drop_eq_nil_of_le (by rw [List.length_singleton]; omega)
    rw [hnone, Dict.pushAll_nil, liveRing]

/-- `len` is the number of upcoming bytes up to the first that differs from the live ring read from the candidate `o` on (R136). -/
structure IsMatchLength (o : Off12) (best : Nat) (upcoming : Buffer) (d : Dict) (len : Nat) : Prop where
  within : len ≤ upcoming.length
  agrees : ∀ i < len, (liveRing d upcoming best i).read (o + BitVec.ofNat 12 i) = upcoming.getD i 0
  differs : len < upcoming.length → (liveRing d upcoming best len).read (o + BitVec.ofNat 12 len) ≠ upcoming.getD len 0

/-- A comparison that has confirmed `m` bytes goes on to the match length, and leaves the live ring there. -/
theorem matchFrom_confirmed {o : Off12} {best : Nat} {upcoming bs : Buffer} {d : Dict} {m : Nat} (hbs : upcoming.drop m = bs)
    (hm : m ≤ upcoming.length)
    (hagrees : ∀ i < m, (liveRing d upcoming best i).read (o + BitVec.ofNat 12 i) = upcoming.getD i 0) :
    ∃ len, matchFrom o best bs m (liveRing d upcoming best m) = (len, liveRing d upcoming best len) ∧
      IsMatchLength o best upcoming d len := by
  induction bs generalizing m with
  | nil =>
    have hend : upcoming.length ≤ m := List.drop_eq_nil_iff.mp hbs
    exact ⟨m, rfl, hm, hagrees, fun hlt => absurd hlt (Nat.not_lt.mpr hend)⟩
  | cons b bs ih =>
    have hlt : m < upcoming.length := by
      by_contra hge
      simp [List.drop_eq_nil_of_le (Nat.le_of_not_lt hge)] at hbs
    have hcons := (List.drop_eq_getElem_cons hlt).symm.trans hbs
    obtain ⟨rfl, htail⟩ := List.cons.inj hcons
    rw [matchFrom, ← liveRing_succ d best hlt]
    split
    next heq =>
      refine ih htail hlt fun i hi => ?_
      rcases Nat.lt_succ_iff_lt_or_eq.mp hi with hi | rfl
      · exact hagrees i hi
      · rw [heq, List.getD_eq_getElem _ _ hlt]
    next hne =>
      refine ⟨m, rfl, hm, hagrees, fun _ => ?_⟩
      rwa [List.getD_eq_getElem _ _ hlt]

/-- A comparison answers the match length of its candidate and the live ring there. -/
theorem matchFrom_spec (o : Off12) (best : Nat) (upcoming : Buffer) (d : Dict) :
    IsMatchLength o best upcoming d (matchFrom o best upcoming 0 d).1 ∧
      (matchFrom o best upcoming 0 d).2 = liveRing d upcoming best (matchFrom o best upcoming 0 d).1 := by
  have hstart : liveRing d upcoming best 0 = d := by simp [liveRing]
  obtain ⟨len, heq, hlen⟩ := matchFrom_confirmed (o := o) (best := best) (upcoming := upcoming) (d := d) (m := 0) rfl
    (Nat.zero_le _) (fun i hi => absurd hi (Nat.not_lt_zero i))
  rw [hstart, List.drop_zero] at heq
  rw [heq]
  exact ⟨hlen, rfl⟩

/-! ### Trying a candidate (R137) -/

section
variable (upcoming : Buffer) (o : Off12) (s : Search)

theorem tryCandidate_best : (tryCandidate upcoming o s).best = max s.best (matchFrom o s.best upcoming 0 s.dict).1 := by
  simp only [tryCandidate]
  split
  next hlonger => exact (max_eq_right hlonger.le).symm
  next hshort => exact (max_eq_left (Nat.le_of_not_lt hshort)).symm

theorem tryCandidate_bestOff :
    (tryCandidate upcoming o s).bestOff = if s.best < (matchFrom o s.best upcoming 0 s.dict).1 then o else s.bestOff := by
  simp only [tryCandidate]
  split <;> rfl

theorem tryCandidate_dict : (tryCandidate upcoming o s).dict = (matchFrom o s.best upcoming 0 s.dict).2 := by
  simp only [tryCandidate]
  split <;> rfl

end

/-- What every stage of a search from `d` keeps: the bytes of the best match, and no others, have been pushed (R136, R139). -/
def Search.Pushed (d : Dict) (upcoming : Buffer) (s : Search) : Prop :=
  s.best ≤ upcoming.length ∧ s.dict = d.pushAll (upcoming.take s.best)

theorem tryCandidate_pushed {d : Dict} {upcoming : Buffer} {s : Search} (h : s.Pushed d upcoming) (o : Off12) :
    (tryCandidate upcoming o s).Pushed d upcoming := by
  obtain ⟨hbest, hdict⟩ := h
  obtain ⟨hlen, hlive⟩ := matchFrom_spec o s.best upcoming s.dict
  rw [Search.Pushed, tryCandidate_best, tryCandidate_dict, hlive]
  generalize (matchFrom o s.best upcoming 0 s.dict).1 = len at hlen
  refine ⟨max_le hbest hlen.within, ?_⟩
  have hsplit : upcoming.take (max s.best len) = upcoming.take s.best ++ (upcoming.take len).drop s.best := by
    rcases Nat.le_total len s.best with hle | hle
    · rw [max_eq_left hle, List.drop_eq_nil_of_le ((List.length_take_le ..).trans hle), List.append_nil]
    · rw [max_eq_right hle]
      conv_lhs => rw [← List.take_append_drop s.best (upcoming.take len), List.take_take, min_eq_left hle]
  rw [hsplit, Dict.pushAll_append, ← hdict, liveRing]

/-! ### The search as a fold (R135) -/

/-- The offsets a search from `d` tries, in their order (R135). -/
def candidates (d : Dict) : List Off12 :=
  ((List.range candidateCount).map fun k => d.wcur + 1 + BitVec.ofNat 12 k).filter fun o =>
    d.fill.toNat = dictSize ∨ o.toNat < d.fill.toNat

theorem candidateValid_eq (fill0 : BitVec 13) (o : Off12) :
    candidateValid fill0 o = decide (fill0.toNat = dictSize ∨ o.toNat < fill0.toNat) := by
  simp [candidateValid, ringFull, Bool.beq_eq_decide_eq]

theorem searchFrom_eq_foldl (w0 : Off12) (fill0 : BitVec 13) (upcoming : Buffer) (left k : Nat) (s : Search) :
    searchFrom w0 fill0 upcoming left k s =
      (((List.range' k left).map fun k => w0 + 1 + BitVec.ofNat 12 k).filter (candidateValid fill0)).foldl
        (fun s o => tryCandidate upcoming o s) s := by
  induction left generalizing k s with
  | zero => rfl
  | succ left ih =>
    rw [searchFrom, List.range'_succ, List.map_cons, List.filter_cons]
    split
    next => rw [ih, List.foldl_cons]
    next => rw [ih]

theorem searchAll_eq_foldl (d : Dict) (upcoming : Buffer) :
    searchAll d upcoming =
      (candidates d).foldl (fun s o => tryCandidate upcoming o s) { dict := d, best := 0, bestOff := 0, m := none } := by
  rw [searchAll, searchFrom_eq_foldl, ← List.range_eq_range', funext (candidateValid_eq d.fill), candidates]

theorem searchAll_pushed (d : Dict) (upcoming : Buffer) : (searchAll d upcoming).Pushed d upcoming := by
  rw [searchAll_eq_foldl]
  exact List.foldlRecOn _ _ ⟨Nat.zero_le _, rfl⟩ fun _ hs o _ => tryCandidate_pushed hs o

/-- What every stage of a search from `d` keeps: the offset of a match found is one of the candidates. -/
def Search.Offered (d : Dict) (s : Search) : Prop := s.best ≠ 0 → s.bestOff ∈ candidates d

theorem tryCandidate_offered {d : Dict} {upcoming : Buffer} {s : Search} {o : Off12} (h : s.Offered d) (ho : o ∈ candidates d) :
    (tryCandidate upcoming o s).Offered d := by
  intro hbest
  rw [tryCandidate_bestOff]
  split
  next => exact ho
  next hshort =>
    rw [tryCandidate_best, max_eq_left (Nat.le_of_not_lt hshort)] at hbest
    exact h hbest

theorem searchAll_offered (d : Dict) (upcoming : Buffer) : (searchAll d upcoming).Offered d := by
  rw [searchAll_eq_foldl]
  exact List.foldlRecOn _ _ (fun h => absurd rfl h) fun _ hs _ ho => tryCandidate_offered hs ho

/-- The write cursor is no candidate, and while the ring is not full no offset at or above the fill is one (R135, D5). -/
theorem mem_candidates {d : Dict} {o : Off12} (h : o ∈ candidates d) :
    o ≠ d.wcur ∧ (d.fill.toNat ≠ dictSize → o.toNat < d.fill.toNat) := by
  rw [candidates, List.mem_filter, List.mem_map, decide_eq_true_eq] at h
  obtain ⟨⟨k, hk, rfl⟩, hvalid⟩ := h
  have hk : k < 4095 := List.mem_range.mp hk
  exact ⟨by bv_omega, hvalid.resolve_left⟩

/-! ### The end of a search (R138) -/

@[simp] theorem endSearch_best (upcoming : Buffer) (s : Search) : (endSearch upcoming s).best = s.best := by
  unfold endSearch
  split <;> rfl

@[simp] theorem endSearch_bestOff (upcoming : Buffer) (s : Search) : (endSearch upcoming s).bestOff = s.bestOff := by
  unfold endSearch
  split <;> rfl

@[simp] theorem endSearch_m (upcoming : Buffer) (s : Search) : (endSearch upcoming s).m = s.m := by
  unfold endSearch
  split <;> rfl

theorem endSearch_dict (upcoming : Buffer) (s : Search) :
    (endSearch upcoming s).dict = if s.best = 0 then s.dict.pushAll (upcoming.take 1) else s.dict := by
  unfold endSearch
  split <;> rfl

/-- A whole search pushes the bytes its token consumes: the match, or the one byte of a literal (R138, R139). -/
theorem endSearch_pushed {d : Dict} {upcoming : Buffer} {s : Search} (h : s.Pushed d upcoming) :
    (endSearch upcoming s).dict = d.pushAll (upcoming.take (max 1 s.best)) := by
  obtain ⟨-, hdict⟩ := h
  rw [endSearch_dict, hdict]
  split
  next hzero => simp [hzero]
  next hpos => rw [max_eq_right (Nat.one_le_iff_ne_zero.mpr hpos)]

end Sys2Proof.Machine
end

section
/-! SUPPORT. The token loop of a `COMPRESS` (43_compressor.md rule R133): each of its steps as a relation that no parameter enters, and that
it comes to FINALIZE with an output within the worst case of rule R146. -/

namespace Sys2Proof.Machine

/-! ### The steps of the token loop (R133) -/

/-- What `EMIT` reads: the registers are written, no EOS has been emitted, and `CTRL_POS` lies inside `OUT` (R133). -/
structure Comp.Emits (c : Comp) (d : Dict) (ctrl : Byte) (slot pos : Nat) : Prop where
  phase : c.phase = .emit
  finished : c.finished = false
  dict : c.dict = some d
  ctrl : c.ctrl = some ctrl
  slot : c.slot = some slot
  ctrlPos : c.ctrlPos = some pos
  inside : pos < c.out.length

/-- A compressor after the EOS of its slot: the run's control byte stands at `CTRL_POS`, and FINALIZE follows (R133, R140). -/
def Comp.afterEos (c : Comp) (d : Dict) (ctrl : Byte) (slot pos : Nat) : Comp :=
  { c with
    ctrl := some (setCtrlBit ctrl slot), finished := true, slot := some (slot + 1), phase := .finalize
    out := (c.out ++ [refHigh d.wcur, refLow d.wcur 0]).set pos (setCtrlBit ctrl slot) }

/-- One step of the token loop, from `RUN_START`, `SEARCH` or `EMIT` (R133). -/
inductive Comp.StreamStep : Comp → Comp → Prop where
  | beginRun {c : Comp} (hphase : c.phase = .runStart) :
      StreamStep c
        { c with ctrlPos := some c.out.length, out := c.out ++ [0x00#8], ctrl := some 0x00#8, slot := some 0, phase := .search }
  | noSearch {c : Comp} {d : Dict} (hphase : c.phase = .search) (hdict : c.dict = some d) (hend : c.ip = c.inp.length) :
      StreamStep c { c with phase := .emit }
  | search {c : Comp} {d : Dict} (hphase : c.phase = .search) (hdict : c.dict = some d) (hleft : c.ip ≠ c.inp.length) :
      StreamStep c { c.search d with phase := .emit }
  | literal {c : Comp} {d : Dict} {ctrl b : Byte} {slot pos best : Nat} {off : Off12} (hc : c.Emits d ctrl slot pos)
      (hb : c.inp[c.ip]? = some b) (hbest : c.best = some best) (hoff : c.bestOff = some off) (hshort : best < minMatch) :
      StreamStep c ((c.emitLiteral b).afterToken ctrl slot pos)
  | reference {c : Comp} {d : Dict} {ctrl : Byte} {slot pos best : Nat} {off : Off12} (hc : c.Emits d ctrl slot pos)
      (hleft : c.ip ≠ c.inp.length) (hbest : c.best = some best) (hoff : c.bestOff = some off) (hlong : minMatch ≤ best) :
      StreamStep c ((c.emitReference ctrl slot best off).afterToken (setCtrlBit ctrl slot) slot pos)
  | eos {c : Comp} {d : Dict} {ctrl : Byte} {slot pos : Nat} (hc : c.Emits d ctrl slot pos) (hend : c.ip = c.inp.length) :
      StreamStep c (c.afterEos d ctrl slot pos)

/-- `EMIT` with a token that is not the EOS: the token, then the next slot or the end of the run (R133). -/
theorem Comp.emit_of_token {c c' : Comp} {d : Dict} {ctrl ctrl' : Byte} {slot pos : Nat} (hc : c.Emits d ctrl slot pos)
    (htoken : c.emitToken d ctrl slot = .ok c') (hfin : c'.finished = false) (hctrl : c'.ctrl = some ctrl')
    (hpos : c'.ctrlPos = some pos) (hin : pos < c'.out.length) : c.emit = .run (c'.afterToken ctrl' slot pos) := by
  simp only [Comp.emit, hc.dict, hc.ctrl, hc.slot, htoken, hfin, and_true, Comp.afterToken]
  split
  next => rfl
  next => simp only [Comp.endRun, hpos, hctrl, hin, if_true, Bool.false_eq_true, if_false]

theorem Comp.emit_literal {c : Comp} {d : Dict} {ctrl b : Byte} {slot pos best : Nat} {off : Off12} (hc : c.Emits d ctrl slot pos)
    (hb : c.inp[c.ip]? = some b) (hbest : c.best = some best) (hoff : c.bestOff = some off) (hshort : best < minMatch) :
    c.emit = .run ((c.emitLiteral b).afterToken ctrl slot pos) := by
  have hleft : c.ip ≠ c.inp.length := Nat.ne_of_lt (List.getElem?_eq_some_iff.mp hb).1
  have htoken : c.emitToken d ctrl slot = .ok (c.emitLiteral b) := by
    simp only [Comp.emitToken, hleft, if_false, hbest, hoff, hshort, if_true, hb]
  exact Comp.emit_of_token hc htoken hc.finished hc.ctrl hc.ctrlPos
    (Nat.lt_of_lt_of_le hc.inside (by simp [Comp.emitLiteral]))

theorem Comp.emit_reference {c : Comp} {d : Dict} {ctrl : Byte} {slot pos best : Nat} {off : Off12}
    (hc : c.Emits d ctrl slot pos) (hleft : c.ip ≠ c.inp.length) (hbest : c.best = some best) (hoff : c.bestOff = some off)
    (hlong : minMatch ≤ best) :
    c.emit = .run ((c.emitReference ctrl slot best off).afterToken (setCtrlBit ctrl slot) slot pos) := by
  have htoken : c.emitToken d ctrl slot = .ok (c.emitReference ctrl slot best off) := by
    simp only [Comp.emitToken, hleft, if_false, hbest, hoff, Nat.not_lt.mpr hlong]
  exact Comp.emit_of_token hc htoken hc.finished rfl hc.ctrlPos (Nat.lt_of_lt_of_le hc.inside (by simp [Comp.emitReference]))

theorem Comp.emit_eos {c : Comp} {d : Dict} {ctrl : Byte} {slot pos : Nat} (hc : c.Emits d ctrl slot pos)
    (hend : c.ip = c.inp.length) : c.emit = .run (c.afterEos d ctrl slot pos) := by
  have htoken : c.emitToken d ctrl slot = .ok (c.emitEos d ctrl slot) := if_pos hend
  have hin : pos < (c.out ++ [refHigh d.wcur, refLow d.wcur 0]).length := Nat.lt_of_lt_of_le hc.inside (by simp)
  simp only [Comp.emit, hc.dict, hc.ctrl, hc.slot, htoken, Comp.emitEos, Bool.true_eq_false, and_false, if_false, Comp.endRun,
    hc.ctrlPos, hin, if_true, Comp.afterEos]

/-- The relation is what a compressor's step does, under any parameters. -/
theorem Comp.StreamStep.tick_eq {c c' : Comp} (h : c.StreamStep c') (cfg : Config) : c.tick cfg = .run c' := by
  cases h with
  | beginRun hphase => simp only [Comp.tick, hphase, Comp.beginRun]
  | noSearch hphase hdict hend => simp only [Comp.tick, hphase, Comp.searchStep, hdict, hend, if_true]
  | search hphase hdict hleft => simp only [Comp.tick, hphase, Comp.searchStep, hdict, hleft, if_false]
  | literal hc hb hbest hoff hshort => simp only [Comp.tick, hc.phase, Comp.emit_literal hc hb hbest hoff hshort]
  | reference hc hleft hbest hoff hlong => simp only [Comp.tick, hc.phase, Comp.emit_reference hc hleft hbest hoff hlong]
  | eos hc hend => simp only [Comp.tick, hc.phase, Comp.emit_eos hc hend]

/-- A step of the token loop by the host's move. -/
theorem Comp.StreamStep.step_eq {s : State} {tag : Nat} {rest : List HostMove} {c c' : Comp} (h : c.StreamStep c')
    (hmoves : s.moves = .advance tag :: rest) (hc : Table.get s.engines tag = some (.comp c)) :
    step s = .next ((s.take rest tag).putEngine (.comp c')) := by
  rw [step_of_advance hmoves, State.advance_comp hc, h.tick_eq, State.afterEngine]

/-! ### The token loop up to FINALIZE -/

/-- The phases of the token loop. -/
def Comp.Streams (c : Comp) : Prop := c.phase = .runStart ∨ c.phase = .search ∨ c.phase = .emit

theorem Comp.exists_emitStep {c : Comp} (h : c.sound = true) (hp : c.phase = .emit) : ∃ c', c.StreamStep c' := by
  simp only [Comp.sound, hp, Bool.and_eq_true, Bool.or_eq_true, beq_iff_eq, Comp.frameSound_iff, Comp.runSound_iff, written_iff,
    decide_eq_true_eq, and_true] at h
  obtain ⟨⟨⟨⟨d, hd, -⟩, -, hip⟩, ⟨ctrl, hctrl⟩, ⟨pos, hpos, hin⟩, ⟨slot, hslot, -⟩, hfin⟩, hbest⟩ := h
  have hc : c.Emits d ctrl slot pos := ⟨hp, hfin, hd, hctrl, hslot, hpos, hin⟩
  by_cases hend : c.ip = c.inp.length
  · exact ⟨_, .eos hc hend⟩
  · obtain ⟨⟨best, hbest, -, -⟩, off, hoff⟩ := hbest.resolve_left hend
    rcases Nat.lt_or_ge best minMatch with hshort | hlong
    · exact ⟨_, .literal hc (List.getElem?_eq_getElem (Nat.lt_of_le_of_ne hip hend)) hbest hoff hshort⟩
    · exact ⟨_, .reference hc hend hbest hoff hlong⟩

/-- In the token loop sound registers have a step. -/
theorem Comp.exists_streamStep {c : Comp} (h : c.sound = true) (hs : c.Streams) : ∃ c', c.StreamStep c' := by
  rcases hs with hp | hp | hp
  · exact ⟨_, .beginRun hp⟩
  · have hframe : c.frameSound = true := by
      simp only [Comp.sound, hp, Bool.and_eq_true] at h
      exact h.1
    obtain ⟨⟨d, hd, -⟩, -⟩ := Comp.frameSound_iff.mp hframe
    by_cases hend : c.ip = c.inp.length
    · exact ⟨_, .noSearch hp hd hend⟩
    · exact ⟨_, .search hp hd hend⟩
  · exact Comp.exists_emitStep h hp

section
variable (c : Comp) (ctrl : Byte) (slot pos : Nat)

@[simp] theorem Comp.afterToken_inp : (c.afterToken ctrl slot pos).inp = c.inp := by
  unfold Comp.afterToken
  split <;> rfl

@[simp] theorem Comp.afterToken_mode : (c.afterToken ctrl slot pos).mode = c.mode := by
  unfold Comp.afterToken
  split <;> rfl

theorem Comp.afterToken_streams : (c.afterToken ctrl slot pos).Streams := by
  unfold Comp.afterToken
  split
  next => exact .inr (.inl rfl)
  next => exact .inl rfl

end

/-- The token loop goes on, or its last step has gone to FINALIZE. -/
theorem Comp.StreamStep.phase {c c' : Comp} (h : c.StreamStep c') : c'.Streams ∨ c'.phase = .finalize := by
  cases h with
  | beginRun => exact .inl (.inr (.inl rfl))
  | noSearch | search => exact .inl (.inr (.inr rfl))
  | literal | reference => exact .inl (Comp.afterToken_streams ..)
  | eos => exact .inr rfl

/-- The operands of the command stay as they are. -/
theorem Comp.StreamStep.operands {c c' : Comp} (h : c.StreamStep c') : c'.inp = c.inp ∧ c'.mode = c.mode := by
  cases h with
  | beginRun | noSearch | search | eos => exact ⟨rfl, rfl⟩
  | literal => exact ⟨Comp.afterToken_inp .., Comp.afterToken_mode ..⟩
  | reference => exact ⟨Comp.afterToken_inp .., Comp.afterToken_mode ..⟩

theorem Comp.StreamStep.progress {c c' : Comp} (h : c.StreamStep c') (hc : c.sound = true) : c.Progress c' := by
  have hsafe := Comp.tick_safe Config.standard hc
  rwa [h.tick_eq] at hsafe

/-- The token loop comes to FINALIZE, keeping what each of its steps keeps. -/
theorem Comp.streams_to_finalize {Inv : Comp → Prop} (hkeeps : ∀ {c c' : Comp}, c.StreamStep c' → Inv c → Inv c') {c : Comp}
    (hc : c.sound = true) (hs : c.Streams) (hinv : Inv c) :
    ∃ f, Relation.ReflTransGen Comp.StreamStep c f ∧ f.phase = .finalize ∧ Inv f := by
  induction hn : c.stepsLeft using Nat.strong_induction_on generalizing c with
  | _ n ih =>
    obtain ⟨c', hstep⟩ := Comp.exists_streamStep hc hs
    obtain ⟨hc', hless⟩ := hstep.progress hc
    rcases hstep.phase with hs' | hfinal
    · obtain ⟨f, hreach, hf⟩ := ih _ (hn ▸ hless) hc' hs' (hkeeps hstep hinv) rfl
      exact ⟨f, .head hstep hreach, hf⟩
    · exact ⟨c', .single hstep, hfinal, hkeeps hstep hinv⟩

/-! ### The length of the output -/

/-- The output grows by no more than the input consumed, by a control byte a run and by the EOS, and each slot before the EOS has
consumed a byte at least (R146): eight times its length stays within nine times the input consumed, less one for each token of the
run in progress. -/
def Comp.Compact (c : Comp) : Prop :=
  match c.phase with
  | .runStart => hdrLen ≤ c.out.length ∧ 8 * c.out.length ≤ 8 * hdrLen + 9 * c.ip
  | .search | .emit =>
    hdrLen + 1 ≤ c.out.length ∧ ∃ slot, c.slot = some slot ∧ 8 * c.out.length + slot ≤ 8 * (hdrLen + 1) + 9 * c.ip
  | .finalize => hdrLen + 3 ≤ c.out.length ∧ 8 * c.out.length ≤ 8 * (hdrLen + 3) + 9 * c.inp.length
  | .idle | .check | .done => True

theorem Comp.Compact.of_emits {c : Comp} {d : Dict} {ctrl : Byte} {slot pos : Nat} (h : c.Compact) (hc : c.Emits d ctrl slot pos) :
    hdrLen + 1 ≤ c.out.length ∧ 8 * c.out.length + slot ≤ 8 * (hdrLen + 1) + 9 * c.ip := by
  simp only [Comp.Compact, hc.phase, hc.slot, Option.some.injEq, exists_eq_left'] at h
  exact h

theorem Comp.compact_afterToken {c : Comp} (ctrl : Byte) {slot : Nat} (pos : Nat) (hout : hdrLen + 1 ≤ c.out.length)
    (hsize : 8 * c.out.length + (slot + 1) ≤ 8 * (hdrLen + 1) + 9 * c.ip) : (c.afterToken ctrl slot pos).Compact := by
  unfold Comp.afterToken
  split
  next => exact ⟨hout, _, rfl, hsize⟩
  next hfull =>
    simp only [Comp.Compact, List.length_set, runSlots] at hfull ⊢
    omega

theorem Comp.StreamStep.compact {c c' : Comp} (h : c.StreamStep c') (hc : c.Compact) : c'.Compact := by
  cases h with
  | beginRun hphase =>
    simp only [Comp.Compact, hphase] at hc
    obtain ⟨hout, hsize⟩ := hc
    refine ⟨?_, 0, rfl, ?_⟩ <;> simp only [List.length_append, List.length_singleton] <;> omega
  | noSearch hphase | search hphase =>
    simp only [Comp.Compact, hphase] at hc
    exact hc
  | literal hc' =>
    obtain ⟨hout, hsize⟩ := hc.of_emits hc'
    refine Comp.compact_afterToken _ _ ?_ ?_ <;>
      simp only [Comp.emitLiteral, List.length_append, List.length_singleton] <;> omega
  | reference hc' _ _ _ hlong =>
    obtain ⟨hout, hsize⟩ := hc.of_emits hc'
    refine Comp.compact_afterToken _ _ ?_ ?_ <;>
      simp only [Comp.emitReference, List.length_append, List.length_cons, List.length_nil, minMatch] at hlong ⊢ <;> omega
  | eos hc' hend =>
    obtain ⟨hout, hsize⟩ := hc.of_emits hc'
    simp only [Comp.Compact, Comp.afterEos, List.length_set, List.length_append, List.length_cons, List.length_nil]
    omega

end Sys2Proof.Machine
end

section
/-! SUPPORT. A whole `COMPRESS` (43_compressor.md rules R130 to R132, R145): the steps of CHECK and of FINALIZE, and the response that they
and the token loop lead to. -/

namespace Sys2Proof.Machine

/-! ### CHECK (R130 to R132) -/

theorem sizeCheckIn_compressed {cfg : Config} {n : Nat} :
    sizeCheckIn cfg tagCompressed n = none ↔ n ≤ maxField ∧ n ≤ cfg.maxInCompressed := by
  have htags : tagCompressed ≠ tagUncompressed := by decide
  simp only [sizeCheckIn, htags, false_and, if_false, true_and]
  split
  next hfield => simp only [reduceCtorEq, false_iff, not_and]; omega
  next hfield =>
    split
    next hlimit => simp only [reduceCtorEq, false_iff, not_and]; omega
    next hlimit => exact ⟨fun _ => ⟨Nat.le_of_not_lt hfield, Nat.le_of_not_lt hlimit⟩, fun _ => rfl⟩

theorem sizeCheckIn_inputLimit {cfg : Config} {n : Nat} (hfield : n ≤ maxField) (hlimit : cfg.maxInCompressed < n) :
    sizeCheckIn cfg tagCompressed n = some (.inputTooLarge .inputLimit) := by
  have htags : tagCompressed ≠ tagUncompressed := by decide
  simp only [sizeCheckIn, Nat.not_lt.mpr hfield, htags, false_and, if_false, hlimit, and_self, if_true]

theorem sizeCheckIn_raw_sizeField {cfg : Config} {n : Nat} (hbig : maxField < n + 12) :
    sizeCheckIn cfg tagUncompressed n = some (.inputTooLarge .sizeField) := by
  simp only [sizeCheckIn, hbig, and_self, if_true, ite_self]

theorem sizeCheckIn_raw_none {cfg : Config} {n : Nat} (hfield : n + 12 ≤ maxField) :
    sizeCheckIn cfg tagUncompressed n = none := by
  have htags : tagUncompressed ≠ tagCompressed := by decide
  have hn : n ≤ maxField := Nat.le_of_add_right_le hfield
  simp only [sizeCheckIn, Nat.not_lt.mpr hn, Nat.not_lt.mpr hfield, htags, false_and, and_false, if_false]

theorem sizeCheckOut_raw (cfg : Config) (len : Nat) :
    sizeCheckOut cfg tagUncompressed len = if cfg.maxOut < len then some (.inputTooLarge .outputLimit) else none := by
  have htags : tagUncompressed ≠ tagCompressed := by decide
  simp only [sizeCheckOut, htags, false_and, if_false]

/-- The container of `UNCOMPRESSED` mode is the header over its placeholder, then the input (R130). -/
theorem rawContainer_eq (data : Buffer) :
    rawContainer data = container (BitVec.ofNat 32 (data.length + 12)) (BitVec.ofNat 32 data.length) tagUncompressed 0 data := by
  simp [rawContainer, patchHeader, headerPlaceholder, container]

@[simp] theorem container_length (cs rs ct crcVal : Word32) (payload : Buffer) :
    (container cs rs ct crcVal payload).length = payload.length + hdrLen := by
  simp only [container, headerBytes, le32Bytes, List.length_append, List.length_cons, List.length_nil, hdrLen]
  omega

theorem rawContainer_length (data : Buffer) : (rawContainer data).length = data.length + hdrLen := by
  rw [rawContainer_eq, container_length]

/-- The registers after the set-up of `COMPRESSED` mode (R132). -/
def Comp.opened (data : Buffer) : Comp :=
  { Comp.start tagCompressed data with dict := some Dict.new, out := headerPlaceholder, phase := .runStart }

theorem Comp.opened_sound (data : Buffer) : (Comp.opened data).sound = true := by
  simp [Comp.opened, Comp.start, Comp.sound, Comp.frameSound_iff, Dict.new_sound, headerPlaceholder]

theorem Comp.opened_compact (data : Buffer) : (Comp.opened data).Compact := by
  simp [Comp.opened, Comp.start, Comp.Compact, headerPlaceholder]

section
variable {cfg : Config} {mode : Word32} {data : Buffer}

theorem Comp.tick_start_unknownMode (hc : mode ≠ tagCompressed) (hu : mode ≠ tagUncompressed) :
    (Comp.start mode data).tick cfg = .done (Comp.start mode data) (.err (.invalidArgument .unknownMode)) :=
  if_pos ⟨hc, hu⟩

theorem Comp.tick_start_refused {e : Err} (hmode : mode = tagCompressed ∨ mode = tagUncompressed)
    (he : sizeCheckIn cfg mode data.length = some e) : (Comp.start mode data).tick cfg = .done (Comp.start mode data) (.err e) := by
  have hknown : ¬(mode ≠ tagCompressed ∧ mode ≠ tagUncompressed) := by tauto
  simp only [Comp.tick, Comp.check, Comp.start, hknown, if_false, he]

theorem Comp.tick_start_compressed (h : sizeCheckIn cfg tagCompressed data.length = none) :
    (Comp.start tagCompressed data).tick cfg = .run (Comp.opened data) := by
  have htags : tagCompressed ≠ tagUncompressed := by decide
  simp only [Comp.tick, Comp.check, Comp.start, ne_eq, not_true, false_and, if_false, h, htags, Comp.opened]

/-- `UNCOMPRESSED` mode goes on in `CHECK` to the size of its container (R130, R131). -/
theorem Comp.tick_start_uncompressed (hfield : data.length + 12 ≤ maxField) :
    (Comp.start tagUncompressed data).tick cfg =
      .done (Comp.start tagUncompressed data)
        (if cfg.maxOut < data.length + hdrLen then .err (.inputTooLarge .outputLimit) else .ok (.bytes (rawContainer data))) := by
  simp only [Comp.tick, Comp.check, Comp.start, ne_eq, not_true, and_false, if_false, sizeCheckIn_raw_none hfield, if_true,
    sizeCheckOut_raw, rawContainer_length]
  by_cases hlimit : cfg.maxOut < data.length + hdrLen
  · simp only [hlimit, if_true]
  · simp only [hlimit, if_false]

end

/-! ### FINALIZE (R131, R145) -/

/-- The registers after FINALIZE: the header is patched over the placeholder, with the CRC of what stands after it (R120, R145). -/
def Comp.finalized (c : Comp) : Comp :=
  { c with
    crcAcc := crc 0 (c.out.drop hdrLen), phase := .done
    out := container (BitVec.ofNat 32 (c.out.length - 4)) (BitVec.ofNat 32 c.inp.length) tagCompressed (crc 0 (c.out.drop hdrLen))
      (c.out.drop hdrLen) }

theorem sizeCheckOut_compressed (cfg : Config) (len : Nat) :
    sizeCheckOut cfg tagCompressed len =
      if maxField < len - 4 then some (.inputTooLarge .sizeField)
      else if cfg.maxOut < len then some (.inputTooLarge .outputLimit) else none := by
  simp only [sizeCheckOut, true_and]

theorem Comp.tick_finalize {c : Comp} (cfg : Config) (hp : c.phase = .finalize) (hm : c.mode = tagCompressed)
    (hout : hdrLen ≤ c.out.length) :
    c.tick cfg =
      if maxField < c.out.length - 4 then .done { c with crcAcc := crc 0 (c.out.drop hdrLen) } (.err (.inputTooLarge .sizeField))
      else if cfg.maxOut < c.out.length then
        .done { c with crcAcc := crc 0 (c.out.drop hdrLen) } (.err (.inputTooLarge .outputLimit))
      else .run c.finalized := by
  have hcheck := sizeCheckOut_compressed cfg c.out.length
  rw [← hm] at hcheck
  simp only [Comp.tick, hp, Comp.finalize, Nat.not_lt.mpr hout, if_false, hcheck]
  by_cases hbig : maxField < c.out.length - 4
  · simp only [hbig, if_true]
  · by_cases hlimit : cfg.maxOut < c.out.length
    · simp only [hbig, hlimit, if_true, if_false]
    · simp only [hbig, hlimit, if_false, Comp.finalized, patchHeader, container]

/-! ### The steps up to the response -/

section
variable {σ : Type} {tick : σ → Tick σ} {n : Nat} {e e₁ e' : σ} {r : Response}

theorem Tick.Ends.of_run (h : Tick.Ends tick n e e' r) (hk : tick e = .run e₁) : ∃ n', Tick.Ends tick n' e₁ e' r := by
  cases h with
  | done hd => rw [hk] at hd; cases hd
  | run hr hrest => rw [hk] at hr; cases hr; exact ⟨_, hrest⟩

theorem Tick.Ends.of_done {r₁ : Response} (h : Tick.Ends tick n e e' r) (hk : tick e = .done e₁ r₁) : r = r₁ := by
  cases h with
  | done hd => rw [hk] at hd; cases hd; rfl
  | run hr => rw [hk] at hr; cases hr

end

theorem Comp.ends_of_streamSteps {cfg : Config} {n : Nat} {c f c' : Comp} {r : Response}
    (h : Tick.Ends (Comp.tick cfg) n c c' r) (hreach : Relation.ReflTransGen Comp.StreamStep c f) :
    ∃ n', Tick.Ends (Comp.tick cfg) n' f c' r := by
  induction hreach with
  | refl => exact ⟨n, h⟩
  | tail _ hstep ih =>
    obtain ⟨n', h'⟩ := ih
    exact h'.of_run (hstep.tick_eq cfg)

/-- The steps of a whole `COMPRESS`, which is bound to end, have its response (R148). -/
theorem exists_compress_ends (cfg : Config) (mode : Word32) (data : Buffer) :
    ∃ n c' r, compressResponse cfg mode data = .ok r ∧ Tick.Ends (Comp.tick cfg) n (Comp.start mode data) c' r := by
  obtain ⟨r, hr⟩ := compressResponse_ok cfg mode data
  obtain ⟨n, c', hends⟩ := Comp.ends_of_runAll hr
  exact ⟨n, c', r, hr, hends⟩

/-! ### The response (R130, R131, R145) -/

/-- A command that its first step ends answers with that step's response. -/
theorem compressResponse_of_done {cfg : Config} {mode : Word32} {data : Buffer} {c : Comp} {r : Response}
    (h : (Comp.start mode data).tick cfg = .done c r) : compressResponse cfg mode data = .ok r := by
  obtain ⟨n, c', r', hr, hends⟩ := exists_compress_ends cfg mode data
  rw [hr, hends.of_done h]

/-- A command that answers with a result has passed the input's size checks. -/
theorem sizeCheckIn_of_ok {cfg : Config} {mode : Word32} {data : Buffer} {v : Result}
    (hmode : mode = tagCompressed ∨ mode = tagUncompressed) (h : compressResponse cfg mode data = .ok (.ok v)) :
    sizeCheckIn cfg mode data.length = none := by
  cases hcheck : sizeCheckIn cfg mode data.length with
  | none => rfl
  | some e =>
    rw [compressResponse_of_done (Comp.tick_start_refused hmode hcheck)] at h
    cases h

/-- The response of `UNCOMPRESSED` mode to an input within its size fields (R130, R131). -/
theorem compressResponse_uncompressed {data : Buffer} (cfg : Config) (hfield : data.length + 12 ≤ maxField) :
    compressResponse cfg tagUncompressed data =
      .ok (if cfg.maxOut < data.length + hdrLen then .err (.inputTooLarge .outputLimit) else .ok (.bytes (rawContainer data))) :=
  compressResponse_of_done (Comp.tick_start_uncompressed hfield)

/-- The container of `COMPRESSED` mode around a payload (R145). -/
def compressedContainer (data payload : Buffer) : Buffer :=
  container (BitVec.ofNat 32 (payload.length + 12)) (BitVec.ofNat 32 data.length) tagCompressed (crc 0 payload) payload

@[simp] theorem compressedContainer_length (data payload : Buffer) :
    (compressedContainer data payload).length = payload.length + hdrLen := by
  rw [compressedContainer, container_length]

/-- What FINALIZE makes of a payload: the size checks on the final length, then the container (R131, R145). -/
def payloadResponse (cfg : Config) (data payload : Buffer) : Response :=
  if maxField < payload.length + 12 then .err (.inputTooLarge .sizeField)
  else if cfg.maxOut < payload.length + hdrLen then .err (.inputTooLarge .outputLimit)
  else .ok (.bytes (compressedContainer data payload))

theorem payloadResponse_fits {cfg : Config} {data payload : Buffer} (hfield : payload.length + 12 ≤ maxField)
    (hout : payload.length + hdrLen ≤ cfg.maxOut) :
    payloadResponse cfg data payload = .ok (.bytes (compressedContainer data payload)) := by
  rw [payloadResponse, if_neg (Nat.not_lt.mpr hfield), if_neg (Nat.not_lt.mpr hout)]

theorem payloadResponse_overLimit {cfg : Config} {data payload : Buffer} (hfield : payload.length + 12 ≤ maxField)
    (hout : cfg.maxOut < payload.length + hdrLen) :
    payloadResponse cfg data payload = .err (.inputTooLarge .outputLimit) := by
  rw [payloadResponse, if_neg (Nat.not_lt.mpr hfield), if_pos hout]

theorem payloadResponse_ok {cfg : Config} {data payload out : Buffer} (h : payloadResponse cfg data payload = .ok (.bytes out)) :
    payload.length + 12 ≤ maxField ∧ out = compressedContainer data payload := by
  unfold payloadResponse at h
  split at h
  next => cases h
  next hfield =>
    split at h
    next => cases h
    next => cases h; exact ⟨Nat.le_of_not_lt hfield, rfl⟩

/-- From FINALIZE a compressor ends with the response to its payload. -/
theorem Comp.response_at_finalize {cfg : Config} {n : Nat} {f c' : Comp} {r : Response} (h : Tick.Ends (Comp.tick cfg) n f c' r)
    (hp : f.phase = .finalize) (hm : f.mode = tagCompressed) (hout : hdrLen ≤ f.out.length) :
    r = payloadResponse cfg f.inp (f.out.drop hdrLen) := by
  have htick := Comp.tick_finalize cfg hp hm hout
  have hlen : (f.out.drop hdrLen).length + hdrLen = f.out.length := by rw [List.length_drop]; omega
  have hfield : (f.out.drop hdrLen).length + 12 = f.out.length - 4 := by rw [List.length_drop, hdrLen] at *; omega
  rw [payloadResponse, hlen, hfield]
  split at htick
  next hbig => rw [if_pos hbig, h.of_done htick]
  next hbig =>
    rw [if_neg hbig]
    split at htick
    next hlimit => rw [if_pos hlimit, h.of_done htick]
    next hlimit =>
      obtain ⟨n', h'⟩ := h.of_run htick
      rw [if_neg hlimit, h'.of_done rfl, compressedContainer, hfield, Comp.finalized]

/-! ### A whole command in COMPRESSED mode -/

/-- The token loop of a `COMPRESS` of `data` comes to FINALIZE, with an output within its worst case. -/
theorem Comp.opened_to_finalize (data : Buffer) :
    ∃ f, Relation.ReflTransGen Comp.StreamStep (Comp.opened data) f ∧ f.phase = .finalize ∧
      (f.inp = data ∧ f.mode = tagCompressed) ∧ f.Compact := by
  refine Comp.streams_to_finalize (Inv := fun c => (c.inp = data ∧ c.mode = tagCompressed) ∧ c.Compact) (fun hstep hinv => ?_)
    (Comp.opened_sound data) (.inl rfl) ⟨⟨rfl, rfl⟩, Comp.opened_compact data⟩
  obtain ⟨⟨hinp, hmode⟩, hcompact⟩ := hinv
  obtain ⟨hinp', hmode'⟩ := hstep.operands
  exact ⟨⟨hinp'.trans hinp, hmode'.trans hmode⟩, hstep.compact hcompact⟩

/-- Every input has one payload, of 3 to `N + N/8 + 3` bytes, whatever the parameters: a `COMPRESS` whose input passes the size checks
answers with the response to it (R146, R148). -/
theorem exists_payload (data : Buffer) :
    ∃ payload : Buffer, 3 ≤ payload.length ∧ payload.length ≤ data.length + data.length / 8 + 3 ∧
      ∀ cfg : Config, sizeCheckIn cfg tagCompressed data.length = none →
        compressResponse cfg tagCompressed data = .ok (payloadResponse cfg data payload) := by
  obtain ⟨f, hreach, hp, ⟨hinp, hmode⟩, hcompact⟩ := Comp.opened_to_finalize data
  simp only [Comp.Compact, hp, hinp] at hcompact
  obtain ⟨hlow, hhigh⟩ := hcompact
  refine ⟨f.out.drop hdrLen, ?low, ?high, fun cfg hcheck => ?response⟩
  case low => rw [List.length_drop]; omega
  case high => rw [List.length_drop]; omega
  case response =>
    obtain ⟨n, c', r, hr, hends⟩ := exists_compress_ends cfg tagCompressed data
    obtain ⟨n₁, hends⟩ := hends.of_run (Comp.tick_start_compressed hcheck)
    obtain ⟨n₂, hends⟩ := Comp.ends_of_streamSteps hends hreach
    rw [hr, Comp.response_at_finalize hends hp hmode (Nat.le_of_add_right_le hlow), hinp]

/-! ### The command on a state -/

theorem exec_compress_eq {mode : Word32} {data : Buffer} {s : State} {r : Response} (h : compressResponse s.cfg mode data = .ok r) :
    exec (.compress mode data) s = .next (s.finish r) :=
  (congrArg s.answer h).trans (State.answer_ok s r)

/-- The responses the host has received tell one end of a command from another. -/
theorem State.finish_injective (s : State) : Function.Injective s.finish := by
  intro r r' h
  simpa using congrArg State.responses h

theorem compressResponse_of_exec {mode : Word32} {data : Buffer} {s : State} {r : Response}
    (h : exec (.compress mode data) s = .next (s.finish r)) : compressResponse s.cfg mode data = .ok r := by
  obtain ⟨r', hr', heq⟩ := State.answer_next.mp h
  rw [hr', s.finish_injective heq]

end Sys2Proof.Machine
end

section
/-! CERTIFICATES. The compressor (43_compressor.md): whole commands in either mode (rules R130, R131, R145, R146, R148), the search (rules
R134 to R139) and the emission of a token (rules R133, R140 to R142). -/

namespace Sys2Proof.Machine

/-- Settles O24: the input passes the checks, and its payload is short enough for both limits. -/
theorem compressCompletesWithinTheWorstCase : Obligations.CompressCompletesWithinTheWorstCase := by
  intro data s hlimit hout hfield
  obtain ⟨payload, hlow, hhigh, hresponse⟩ := exists_payload data
  refine ⟨payload, exec_compress_eq ?_, hlow, hhigh⟩
  rw [hresponse s.cfg (sizeCheckIn_compressed.mpr ⟨by omega, hlimit⟩), payloadResponse_fits (by omega) (by rw [hdrLen]; omega),
    compressedContainer]

/-- Settles O25: every `COMPRESS` has a response, computed from the parameters and the operands. -/
theorem compressAlwaysAnswers : Obligations.CompressAlwaysAnswers := by
  intro cfg mode data
  obtain ⟨r, hr⟩ := compressResponse_ok cfg mode data
  refine ⟨r, fun s hcfg => exec_compress_eq ?_⟩
  rw [hcfg, hr]

/-- Settles O23: the checks of CHECK end the command at its first step, FINALIZE makes its two checks on the final length, and an accepted
input has the same payload under any other parameters. -/
theorem compressRefusalsInOrder : Obligations.CompressRefusalsInOrder := by
  refine ⟨fun mode data s hc hu => ?unknownMode, fun data s hbig => ?sizeField, fun data s hbig => ?rawSizeField,
    fun data s hfield hlimit => ?inputLimit, fun data s hfield hlimit => ?rawOutputLimit,
    fun s tag rest c hmoves hc hp hm hout => ?finalize, fun data out s t hexec hin hlimit => ?outputLimit⟩
  case unknownMode => exact exec_compress_eq (compressResponse_of_done (Comp.tick_start_unknownMode hc hu))
  case sizeField =>
    exact exec_compress_eq (compressResponse_of_done (Comp.tick_start_refused (.inl rfl) (if_pos hbig)))
  case rawSizeField =>
    exact exec_compress_eq (compressResponse_of_done (Comp.tick_start_refused (.inr rfl) (sizeCheckIn_raw_sizeField hbig)))
  case inputLimit =>
    exact exec_compress_eq (compressResponse_of_done (Comp.tick_start_refused (.inl rfl) (sizeCheckIn_inputLimit hfield hlimit)))
  case rawOutputLimit =>
    refine exec_compress_eq ?_
    rw [compressResponse_uncompressed s.cfg hfield, if_pos hlimit]
  case finalize =>
    rw [step_of_advance hmoves, State.advance_comp hc, State.take_cfg, Comp.tick_finalize s.cfg hp hm hout]
    split
    next => exact State.answer_ok (s.take rest tag) (.err (.inputTooLarge .sizeField))
    next =>
      split
      next => exact State.answer_ok (s.take rest tag) (.err (.inputTooLarge .outputLimit))
      next => rfl
  case outputLimit =>
    obtain ⟨payload, -, -, hresponse⟩ := exists_payload data
    have hsource := compressResponse_of_exec hexec
    have hcheck : sizeCheckIn s.cfg tagCompressed data.length = none := sizeCheckIn_of_ok (.inl rfl) hsource
    rw [hresponse s.cfg hcheck, Except.ok.injEq] at hsource
    obtain ⟨hfield, rfl⟩ := payloadResponse_ok hsource
    rw [compressedContainer_length] at hlimit
    refine exec_compress_eq ?_
    rw [hresponse t.cfg (sizeCheckIn_compressed.mpr ⟨(sizeCheckIn_compressed.mp hcheck).1, hin⟩),
      payloadResponse_overLimit hfield hlimit]

/-- Settles O26: every candidate keeps that the pushed bytes are the best match, and the end of the search adds a literal's byte. -/
theorem searchPushesWhatItConsumes : Obligations.SearchPushesWhatItConsumes := by
  intro d upcoming _
  have hpushed := searchAll_pushed d upcoming
  rw [endSearch_best]
  exact ⟨hpushed.1, endSearch_pushed hpushed⟩

/-- Settles O27: the fold over the candidates, what trying each keeps, and the comparison with the live ring; the step by the search's
registers. -/
theorem searchPicksItsCandidate : Obligations.SearchPicksItsCandidate := by
  refine ⟨fun d upcoming hfound => mem_candidates (searchAll_offered d upcoming hfound),
    fun upcoming o s => ⟨tryCandidate_best upcoming o s, tryCandidate_bestOff upcoming o s⟩, searchAll_eq_foldl,
    fun o best upcoming d => ?comparison, fun s tag rest c d hmoves hc hp hd hleft => ?step⟩
  case comparison =>
    obtain ⟨hlen, hlive⟩ := matchFrom_spec o best upcoming d
    exact ⟨hlen.within, hlen.agrees, hlen.differs, hlive⟩
  case step =>
    rw [(Comp.StreamStep.search hp hd hleft).step_eq hmoves hc]
    simp only [Comp.search, endSearch_best, endSearch_bestOff, endSearch_m, endSearch_dict, maxMatch, candidateCount,
      Nat.reduceSub]

/-- Settles O22: the input passes the checks of CHECK, and the command ends there with the header and the input. -/
theorem compressRawMode : Obligations.CompressRawMode := by
  intro data s hfield hout
  refine exec_compress_eq ?_
  rw [compressResponse_uncompressed s.cfg hfield, if_neg (Nat.not_lt.mpr hout), rawContainer_eq]

/-- Settles O28: each of the three steps from `EMIT`. -/
theorem compressorEmitsItsToken : Obligations.CompressorEmitsItsToken := by
  intro s tag rest c d ctrl slot pos hmoves hc hp hfin hd hctrl hslot hpos hin
  have hemits : c.Emits d ctrl slot pos := ⟨hp, hfin, hd, hctrl, hslot, hpos, hin⟩
  exact ⟨fun _ _ _ hb hbest hoff hshort => (Comp.StreamStep.literal hemits hb hbest hoff hshort).step_eq hmoves hc,
    fun _ _ hleft hbest hoff hlong => (Comp.StreamStep.reference hemits hleft hbest hoff hlong).step_eq hmoves hc,
    fun hend => (Comp.StreamStep.eos hemits hend).step_eq hmoves hc⟩

end Sys2Proof.Machine
end

section
/-! SUPPORT. The decompressor's elements where they stand (44_decompressor.md rules R163 to R172): the bytes a copy reads, what each element
and each stage of the engine's own does to the registers, and which of them the next step performs. -/

namespace Sys2Proof

/-! ### Reference bodies on the wire (R77, R78) -/

theorem refHigh_toNat (off : Off12) : (refHigh off).toNat = off.toNat / 16 := by
  rw [refHigh, BitVec.extractLsb'_toNat, Nat.shiftRight_eq_div_pow]
  omega

theorem refLow_toNat (off : Off12) (code : BitVec 4) : (refLow off code).toNat = off.toNat % 16 * 16 + code.toNat := by
  have hlow : (off.extractLsb' 0 4).toNat = off.toNat % 16 := by
    rw [BitVec.extractLsb'_toNat, Nat.shiftRight_zero]
  rw [refLow, BitVec.toNat_append, hlow, ← Nat.shiftLeft_add_eq_or_of_lt code.isLt, Nat.shiftLeft_eq]

theorem refOffset_body (off : Off12) (code : BitVec 4) : refOffset (refHigh off) (refLow off code) = off := by
  apply BitVec.eq_of_toNat_eq
  rw [refOffset_toNat, refHigh_toNat, refLow_toNat]
  omega

theorem refCode_body (off : Off12) (code : BitVec 4) : refCode (refLow off code) = code := by
  apply BitVec.eq_of_toNat_eq
  rw [refCode_toNat, refLow_toNat]
  omega

/-- Any two bytes are the body of some reference (R82). -/
theorem exists_refBody (b0 b1 : Byte) : ∃ off code, b0 = refHigh off ∧ b1 = refLow off code := by
  refine ⟨refOffset b0 b1, refCode b1, BitVec.eq_of_toNat_eq ?_, BitVec.eq_of_toNat_eq ?_⟩
  · rw [refHigh_toNat, refOffset_toNat]
    omega
  · rw [refLow_toNat, refOffset_toNat, refCode_toNat]
    omega

/-- A reference body behind a control bit of 1: the EOS at the write cursor, and a reference elsewhere (R79). -/
theorem decode_refBody (wcur off : Off12) (code : BitVec 4) (rest : Buffer) :
    decode (.body true wcur (refHigh off :: refLow off code :: rest)) =
      .ok (if off = wcur then .eos off code else .ref off code, rest) := by
  rw [decode_reference, refOffset_body, refCode_body]

theorem decode_refBody_short {bs : Buffer} (wcur : Off12) (h : bs.length < 2) :
    decode (.body true wcur bs) = .error .tooShort := by
  match bs, h with
  | [], _ => rfl
  | [_], _ => rfl
  | _ :: _ :: _, h => simp only [List.length_cons] at h; omega

/-- The length of the code the compressor gives a match is the length of the match (R78, R142). -/
theorem matchLength_lengthCode {n : Nat} (hlow : minMatch ≤ n) (hhigh : n ≤ maxMatch) : matchLength (lengthCode n) = n := by
  rw [minMatch] at hlow
  rw [maxMatch] at hhigh
  rw [matchLength, lengthCode, BitVec.toNat_ofNat]
  omega

theorem matchLength_le (code : BitVec 4) : matchLength code ≤ 17 := by
  rw [matchLength]
  omega

end Sys2Proof

namespace Sys2Proof.Machine

/-! ### The bytes of a copy (R167, R168) -/

/-- The `n` bytes a copy from `off` reads, each after the push of the byte before it (R167). -/
def copied (off : Off12) : Nat → Dict → Buffer
  | 0, _ => []
  | n + 1, d => d.read off :: copied (off + 1) n (d.push (d.read off))

@[simp] theorem copied_length (off : Off12) (n : Nat) (d : Dict) : (copied off n d).length = n := by
  induction n generalizing off d with
  | zero => rfl
  | succ n ih => simp only [copied, List.length_cons, ih]

theorem offset_add_succ (off : Off12) (i : Nat) : off + BitVec.ofNat 12 (i + 1) = off + 1 + BitVec.ofNat 12 i := by
  bv_omega

/-- Where the copy fits the declared size, the loop writes and pushes the bytes it reads. -/
theorem copyLoop_fits {raw n : Nat} {out : Buffer} (off : Off12) (i : Nat) (d : Dict) (h : out.length + n ≤ raw) :
    copyLoop raw off n i d out =
      some (d.pushAll (copied (off + BitVec.ofNat 12 i) n d), out ++ copied (off + BitVec.ofNat 12 i) n d) := by
  induction n generalizing i d out with
  | zero => simp [copyLoop, copied]
  | succ n ih =>
    have hroom : out.length ≠ raw := by omega
    have hrest : (out ++ [d.read (off + BitVec.ofNat 12 i)]).length + n ≤ raw := by
      simp only [List.length_append, List.length_singleton]
      omega
    have hnext : off + BitVec.ofNat 12 (i + 1) = off + BitVec.ofNat 12 i + 1 := by bv_omega
    simp only [copyLoop, hroom, if_false, ih (i + 1) _ hrest, hnext, copied, Dict.pushAll_cons, List.append_assoc,
      List.singleton_append]

/-- Where the copy passes the declared size, the loop overflows. -/
theorem copyLoop_overflows {raw n : Nat} {out : Buffer} (off : Off12) (i : Nat) (d : Dict) (hout : out.length ≤ raw)
    (h : raw < out.length + n) : copyLoop raw off n i d out = none := by
  induction n generalizing i d out with
  | zero => omega
  | succ n ih =>
    rw [copyLoop]
    split
    next => rfl
    next hroom =>
      refine ih _ _ ?_ ?_ <;> simp only [List.length_append, List.length_singleton] <;> omega

/-- `bs` is what a copy from `off` reads: each byte stands there after the push of the bytes before it (R167). -/
def Dict.Copies (d : Dict) (off : Off12) (bs : Buffer) : Prop :=
  ∀ i, i < bs.length → bs.getD i 0 = (d.pushAll (bs.take i)).read (off + BitVec.ofNat 12 i)

theorem Dict.copies_cons {d : Dict} {off : Off12} {b : Byte} {bs : Buffer} :
    d.Copies off (b :: bs) ↔ b = d.read off ∧ (d.push b).Copies (off + 1) bs := by
  constructor
  · refine fun h => ⟨by simpa using h 0 (Nat.zero_lt_succ _), fun i hi => ?_⟩
    rw [← offset_add_succ]
    exact h (i + 1) (Nat.succ_lt_succ hi)
  · rintro ⟨hb, hbs⟩ i hi
    cases i with
    | zero => simpa using hb
    | succ i =>
      rw [offset_add_succ]
      exact hbs i (Nat.lt_of_succ_lt_succ hi)

theorem copied_copies (off : Off12) (n : Nat) (d : Dict) : d.Copies off (copied off n d) := by
  induction n generalizing off d with
  | zero => exact fun i hi => absurd hi (Nat.not_lt_zero i)
  | succ n ih => exact Dict.copies_cons.mpr ⟨rfl, ih _ _⟩

theorem Dict.Copies.eq_copied {d : Dict} {off : Off12} {bs : Buffer} (h : d.Copies off bs) : bs = copied off bs.length d := by
  induction bs generalizing d off with
  | nil => rfl
  | cons b bs ih =>
    obtain ⟨rfl, hbs⟩ := Dict.copies_cons.mp h
    rw [List.length_cons, copied, ← ih hbs]

/-- From one behind the cursor on, each push puts the byte to be read next where it is read (R167). -/
theorem copied_behind_cursor {off : Off12} {d : Dict} (n : Nat) (hwf : d.ring.wf = true) (hoff : off + 1 = d.wcur) :
    copied off n d = List.replicate n (d.read off) := by
  induction n generalizing off d with
  | zero => rfl
  | succ n ih =>
    have hnext := ih (d := d.push (d.read off)) (Dict.push_wf hwf _) (congrArg (· + 1) hoff)
    have hread : (d.push (d.read off)).read (off + 1) = d.read off := hoff ▸ Dict.read_push_same hwf _
    rw [copied, hnext, hread, List.replicate_succ]

/-- The loop of a copy from `COPY_I = 0` on whose bytes are known. -/
theorem copyLoop_of_copies {raw : Nat} {off : Off12} {d : Dict} {out bs : Buffer} (h : d.Copies off bs)
    (hfits : out.length + bs.length ≤ raw) : copyLoop raw off bs.length 0 d out = some (d.pushAll bs, out ++ bs) := by
  rw [copyLoop_fits off 0 d hfits, BitVec.add_zero, ← h.eq_copied]

/-! ### What each element does (R163 to R169) -/

theorem Dec.control_eq {d : Dec} {ip : Nat} (k : Byte) (hp : d.phase = .ctrl) (hip : d.ip = some ip) (hin : ip + 1 ≤ d.inp.length) :
    d.control k = .run { d.consume ip [k] with ctrl := some k, bit := some 0, phase := .token } := by
  simp only [Dec.control, hp, hip, ne_eq, not_true_eq_false, if_false, Nat.not_lt.mpr hin]

section
variable {d : Dec} {ip bit : Nat} {ctrl : Byte} {dict : Dict} {h : Header} (ht : d.atToken ip bit ctrl dict h)
include ht

theorem Dec.atToken.phase : d.phase = .token := by
  obtain ⟨hp, -⟩ := ht
  exact hp

theorem Dec.atToken.regs : d.tokenRegs = .ok ⟨ip, ctrl, bit, dict, h.rawSize.toNat⟩ := by
  obtain ⟨-, hip, hbit, hctrl, hdict, hhdr⟩ := ht
  exact Dec.tokenRegs_eq hip hctrl hbit hdict hhdr

theorem Dec.atToken.next : d.next = .read (.body (ctrlBit ctrl bit) dict.wcur (d.inp.drop ip)) := by
  obtain ⟨hp, hip, hbit, hctrl, hdict, -⟩ := ht
  simp only [Dec.next, hp, hip, hbit, hctrl, hdict]

section
variable (b : Byte) (hslot : ctrlBit ctrl bit = false) (hin : ip + 1 ≤ d.inp.length)
include hslot hin

theorem Dec.literal_eq (hroom : d.out.length ≠ h.rawSize.toNat) :
    d.literal b =
      .run ({ d.consume ip [b] with out := d.out ++ [b], dict := some (dict.push b) }.nextSlot bit) := by
  simp only [Dec.literal, ht.phase, ht.regs, hslot, Nat.not_lt.mpr hin, ne_eq, not_true_eq_false, Bool.false_eq_true, if_false,
    Dec.consume, hroom]

theorem Dec.literal_overflow (hfull : d.out.length = h.rawSize.toNat) :
    d.literal b = .done (d.consume ip [b]) (.err .outputOverflow) := by
  simp only [Dec.literal, ht.phase, ht.regs, hslot, Nat.not_lt.mpr hin, ne_eq, not_true_eq_false, Bool.false_eq_true, if_false,
    Dec.consume, hfull, if_true]

end

section
variable {off : Off12} (code : BitVec 4) (hslot : ctrlBit ctrl bit = true) (hin : ip + 2 ≤ d.inp.length)
include hslot hin

theorem Dec.reference_eq {bs : Buffer} (hoff : off ≠ dict.wcur) (hlen : bs.length = matchLength code) (hbs : dict.Copies off bs)
    (hfits : d.out.length + bs.length ≤ h.rawSize.toNat) :
    d.reference off code =
      .run { d.readBody ip off code with
        phase := .copy, copyI := some (matchLength code), dict := some (dict.pushAll bs), out := d.out ++ bs } := by
  have hcopy := copyLoop_of_copies hbs hfits
  rw [hlen] at hcopy
  simp only [Dec.reference, ht.phase, ht.regs, hslot, hoff, Nat.not_lt.mpr hin, ne_eq, not_true_eq_false, Bool.true_eq_false, or_self,
    if_false, Dec.readBody, Dec.consume, hcopy]

theorem Dec.reference_overflow (hoff : off ≠ dict.wcur) (hout : d.out.length ≤ h.rawSize.toNat)
    (hover : h.rawSize.toNat < d.out.length + matchLength code) :
    d.reference off code = .done { d.readBody ip off code with phase := .copy } (.err .outputOverflow) := by
  simp only [Dec.reference, ht.phase, ht.regs, hslot, hoff, Nat.not_lt.mpr hin, ne_eq, not_true_eq_false, Bool.true_eq_false, or_self,
    if_false, Dec.readBody, Dec.consume, copyLoop_overflows off 0 dict hout hover]

theorem Dec.endOfStream_eq (hoff : off = dict.wcur) :
    d.endOfStream off code =
      .run { d.readBody ip off code with eosSeen := true, bit := some (bit + 1), phase := .trail } := by
  simp only [Dec.endOfStream, ht.phase, ht.regs, hslot, hoff, Nat.not_lt.mpr hin, ne_eq, not_true_eq_false, Bool.true_eq_false, or_self,
    if_false]

end

end

/-! ### What the next step performs (R160) -/

section
variable {d : Dec} {cfg : Config}

theorem Dec.tick_read {c : Code} {i : Instr} {rest : Buffer} (hn : d.next = .read c) (hd : decode c = .ok (i, rest)) :
    d.tick cfg = d.apply cfg i := by
  simp only [Dec.tick, hn, hd]

theorem Dec.tick_tooFewBytes {c : Code} {e : Reject} (hn : d.next = .read c) (hd : decode c = .error e) :
    d.tick cfg = .done d (.err (tooFewBytes c)) := by
  simp only [Dec.tick, hn, hd]

theorem Dec.next_ctrl {ip : Nat} (hp : d.phase = .ctrl) (hip : d.ip = some ip) : d.next = .read (.control (d.inp.drop ip)) := by
  simp only [Dec.next, hp, hip]

/-- A payload that ends where a control byte is due (R163). -/
theorem Dec.tick_control_underrun {ip : Nat} (hp : d.phase = .ctrl) (hip : d.ip = some ip) (hend : d.inp.length ≤ ip) :
    d.tick cfg = .done d (.err (.inputUnderrun .controlByte)) := by
  refine Dec.tick_tooFewBytes (c := .control (d.inp.drop ip)) (e := .tooShort) (Dec.next_ctrl hp hip) ?_
  rw [List.drop_eq_nil_of_le hend]
  rfl

section
variable {ip bit : Nat} {ctrl : Byte} {dict : Dict} {h : Header} (ht : d.atToken ip bit ctrl dict h)
include ht

/-- A payload that ends where a literal body is due (R163, R165). -/
theorem Dec.tick_literal_underrun (hslot : ctrlBit ctrl bit = false) (hend : d.inp.length ≤ ip) :
    d.tick cfg = .done d (.err (.inputUnderrun .literalBody)) := by
  have hn := ht.next
  rw [hslot] at hn
  refine Dec.tick_tooFewBytes (e := .tooShort) hn ?_
  rw [List.drop_eq_nil_of_le hend]
  rfl

/-- A payload that ends before the second byte of a reference body (R169). -/
theorem Dec.tick_reference_underrun (hslot : ctrlBit ctrl bit = true) (hend : d.inp.length < ip + 2) :
    d.tick cfg = .done d (.err (.inputUnderrun .referenceBody)) := by
  have hn := ht.next
  rw [hslot] at hn
  refine Dec.tick_tooFewBytes hn (decode_refBody_short _ ?_)
  rw [List.length_drop]
  omega

end

theorem Dec.tick_copy {bit : Nat} (hp : d.phase = .copy) (hbit : d.bit = some bit) : d.tick cfg = .run (d.nextSlot bit) := by
  simp only [Dec.tick, Dec.next, Dec.inner, Dec.endCopy, hp, hbit]

theorem Dec.tick_trail {ip : Nat} (hp : d.phase = .trail) (hip : d.ip = some ip) :
    d.tick cfg = .run { d.consume ip (d.inp.drop ip) with phase := .check } := by
  simp only [Dec.tick, Dec.next, Dec.inner, Dec.foldTrailing, hp, hip]

section
variable {h : Header} (hp : d.phase = .check) (hh : d.hdr = some h)
include hp hh

/-- The checks in their order (R171, R172, D15). -/
theorem Dec.tick_check :
    d.tick cfg =
      if d.crcAcc ≠ h.crc then .done d (.err .checksumMismatch)
      else if d.out.length ≠ h.rawSize.toNat then .done d (.err (.inputUnderrun .shortOutput))
      else .run { d with phase := .done } := by
  simp only [Dec.tick, Dec.next, Dec.inner, Dec.checks, hp, hh]

theorem Dec.tick_check_mismatch (hcrc : d.crcAcc ≠ h.crc) : d.tick cfg = .done d (.err .checksumMismatch) :=
  (Dec.tick_check hp hh).trans (if_pos hcrc)

theorem Dec.tick_check_short (hcrc : d.crcAcc = h.crc) (hlen : d.out.length ≠ h.rawSize.toNat) :
    d.tick cfg = .done d (.err (.inputUnderrun .shortOutput)) := by
  rw [Dec.tick_check hp hh, if_neg (not_not.mpr hcrc), if_pos hlen]

theorem Dec.tick_check_passed (hcrc : d.crcAcc = h.crc) (hlen : d.out.length = h.rawSize.toNat) :
    d.tick cfg = .run { d with phase := .done } := by
  rw [Dec.tick_check hp hh, if_neg (not_not.mpr hcrc), if_neg (not_not.mpr hlen)]

end

end

/-- A step after which the command in focus goes on: its registers are kept. -/
theorem State.advance_dec_run {s : State} {d d' : Dec} (hd : Table.get s.engines s.focus = some (.dec d))
    (hk : d.tick s.cfg = .run d') : s.advance = .next (s.putEngine (.dec d')) := by
  rw [State.advance_dec hd, hk]
  rfl

end Sys2Proof.Machine
end

section
/-! SUPPORT. A whole `DECOMPRESS` (44_decompressor.md rule R160) as the steps of its engine, and where those steps stand in a payload: the
bytes read and folded, those left, and the output, which the dictionary holds. -/

namespace Sys2Proof.Machine

/-! ### The steps up to the response -/

/-- The registers that a decompressor's steps come to. -/
abbrev Dec.Steps (cfg : Config) : Dec → Dec → Prop := Relation.ReflTransGen fun d d' => d.tick cfg = .run d'

/-- The steps of a whole command, which is bound to end, have its response (R175). -/
theorem exists_decompress_ends (cfg : Config) (data : Buffer) :
    ∃ n d' r, decompressResponse cfg data = .ok r ∧ Tick.Ends (Dec.tick cfg) n (Dec.start .decompress data) d' r := by
  obtain ⟨r, hr⟩ := Dec.runAll_start_ok cfg .decompress data
  obtain ⟨n, d', hends⟩ := Dec.ends_of_runAll hr
  exact ⟨n, d', r, hr, hends⟩

theorem Dec.ends_of_steps {cfg : Config} {n : Nat} {d e d' : Dec} {r : Response} (h : Tick.Ends (Dec.tick cfg) n d d' r)
    (hreach : Dec.Steps cfg d e) : ∃ n', Tick.Ends (Dec.tick cfg) n' e d' r := by
  induction hreach with
  | refl => exact ⟨n, h⟩
  | tail _ hstep ih =>
    obtain ⟨n', h'⟩ := ih
    exact h'.of_run hstep

theorem exec_decompress_eq {data : Buffer} {s : State} {r : Response} (h : decompressResponse s.cfg data = .ok r) :
    exec (.decompress data) s = .next (s.finish r) :=
  (congrArg s.answer h).trans (State.answer_ok s r)

theorem decompressResponse_of_exec {data : Buffer} {s : State} {r : Response}
    (h : exec (.decompress data) s = .next (s.finish r)) : decompressResponse s.cfg data = .ok r := by
  obtain ⟨r', hr', heq⟩ := State.answer_next.mp h
  rw [hr', s.finish_injective heq]

/-- A command answers with what the registers that its steps come to answer. -/
theorem decompressResponse_of_steps {cfg : Config} {data : Buffer} {d d' : Dec} {r : Response}
    (hreach : Dec.Steps cfg (Dec.start .decompress data) d) (hend : d.tick cfg = .done d' r) :
    decompressResponse cfg data = .ok r := by
  obtain ⟨n, e, r', hr', hends⟩ := exists_decompress_ends cfg data
  obtain ⟨n', hends⟩ := Dec.ends_of_steps hends hreach
  rw [hr', hends.of_done hend]

/-- What a step leads to: registers that satisfy `P`, or a response that satisfies `R`. -/
def Tick.Leads {σ : Type} (P : σ → Prop) (R : Response → Prop) : Tick σ → Prop
  | .run e => P e
  | .done _ r => R r
  | .fault _ => False
  | .outOfPlace => False

theorem Tick.Leads.of_run {σ : Type} {P : σ → Prop} {R : Response → Prop} {t : Tick σ} {e : σ} (ht : t = .run e) (h : P e) :
    t.Leads P R := ht ▸ h

theorem Tick.Leads.of_done {σ : Type} {P : σ → Prop} {R : Response → Prop} {t : Tick σ} {e : σ} {r : Response} (ht : t = .done e r)
    (h : R r) : t.Leads P R := ht ▸ h

/-- Steps that keep `P` until they end with a response that satisfies `R` do end with one. -/
theorem Tick.Ends.response {σ : Type} {tick : σ → Tick σ} {P : σ → Prop} {R : Response → Prop} {n : Nat} {e e' : σ} {r : Response}
    (h : Tick.Ends tick n e e' r) (hleads : ∀ e, P e → (tick e).Leads P R) (he : P e) : R r := by
  induction h with
  | done hk =>
    have hlast := hleads _ he
    rwa [hk] at hlast
  | run hk _ ih =>
    have hnext := hleads _ he
    rw [hk] at hnext
    exact ih hnext

/-! ### A place in the stream -/

/-- A decompressor in a phase of the stream (R162 to R172): the payload bytes `seen` have been read and folded, `rest` is left, and `out`
has been written and pushed. -/
structure Dec.At (d : Dec) (p : DPhase) (h : Header) (seen rest out : Buffer) : Prop where
  phase : d.phase = p
  hdr : d.hdr = some h
  ip : d.ip = some (hdrLen + seen.length)
  payload : d.inp.drop hdrLen = seen ++ rest
  acc : d.crcAcc = crc 0 seen
  dict : d.dict = some (Dict.new.pushAll out)
  out : d.out = out

section
variable {d : Dec} {p : DPhase} {h : Header} {seen rest out : Buffer} (hd : d.At p h seen rest out)
include hd

theorem Dec.At.unread : d.inp.drop (hdrLen + seen.length) = rest := by
  rw [← List.drop_drop, hd.payload, List.drop_left]

/-- Bytes left are inside the buffer (R54). -/
theorem Dec.At.inside (hne : rest ≠ []) : hdrLen + seen.length + rest.length = d.inp.length := by
  have hpos : 0 < rest.length := List.length_pos_of_ne_nil hne
  have hlen := congrArg List.length hd.payload
  simp only [List.length_drop, List.length_append] at hlen
  omega

/-- No byte stands after those left. -/
theorem Dec.At.length_le : d.inp.length ≤ hdrLen + seen.length + rest.length := by
  have hlen := congrArg List.length hd.payload
  simp only [List.length_drop, List.length_append] at hlen
  omega

/-- Reading bytes moves on in the stream, and what is written is pushed (R163, R168). -/
theorem Dec.At.read {d' : Dec} {q : DPhase} {bs rest' out' : Buffer} (hsplit : rest = bs ++ rest') (hp : d'.phase = q)
    (hregs : d'.hdr = d.hdr ∧ d'.inp = d.inp) (hip : d'.ip = some (hdrLen + seen.length + bs.length))
    (hacc : d'.crcAcc = crc d.crcAcc bs) (hdict : d'.dict = some (Dict.new.pushAll out')) (hout : d'.out = out') :
    d'.At q h (seen ++ bs) rest' out' where
  phase := hp
  hdr := hregs.1.trans hd.hdr
  ip := by rw [hip, List.length_append, Nat.add_assoc]
  payload := by rw [hregs.2, hd.payload, hsplit, List.append_assoc]
  acc := by rw [hacc, hd.acc, crc_append]
  dict := hdict
  out := hout

end

/-- A decompressor at slot `bit` of the run of the control byte `ctrl`; after slot 7 a control byte is due (R164). -/
structure Dec.AtSlot (d : Dec) (h : Header) (ctrl : Byte) (bit : Nat) (seen rest out : Buffer) : Prop where
  place : d.At (if bit < runSlots then .token else .ctrl) h seen rest out
  ctrl : d.ctrl = some ctrl
  bit : d.bit = some bit

theorem Dec.AtSlot.atToken {d : Dec} {h : Header} {ctrl : Byte} {bit : Nat} {seen rest out : Buffer}
    (hs : d.AtSlot h ctrl bit seen rest out) (hbit : bit < runSlots) :
    d.atToken (hdrLen + seen.length) bit ctrl (Dict.new.pushAll out) h :=
  ⟨hs.place.phase.trans (if_pos hbit), hs.place.ip, hs.bit, hs.ctrl, hs.place.dict, hs.place.hdr⟩

/-! ### The steps of the stream -/

/-- The registers after the set-up of a `DECOMPRESS` of a `COMPRESSED` container (R162). -/
def Dec.opened (cs rs crcVal : Word32) (payload : Buffer) : Dec :=
  { Dec.start .decompress (container cs rs tagCompressed crcVal payload) with
    hdr := some ⟨cs, rs, tagCompressed, crcVal⟩, dict := some Dict.new, crcAcc := 0, ip := some hdrLen, out := [], eosSeen := false
    phase := .ctrl }

theorem Dec.setUp_fits {cfg : Config} {rs : Word32} (d : Dec) (h : rs.toNat ≤ cfg.maxOut) :
    d.setUp cfg rs =
      .run { d with dict := some Dict.new, crcAcc := 0, ip := some hdrLen, out := [], eosSeen := false, phase := .ctrl } :=
  if_neg (Nat.not_lt.mpr h)

theorem Dec.tick_start_compressed {cfg : Config} {rs : Word32} (cs crcVal : Word32) (payload : Buffer) (h : rs.toNat ≤ cfg.maxOut) :
    (Dec.start .decompress (container cs rs tagCompressed crcVal payload)).tick cfg = .run (Dec.opened cs rs crcVal payload) := by
  rw [Dec.tick_start_container, headerOf_compressed]
  exact (Dec.headerLZFu_decompress rfl cs rs crcVal cfg rfl).trans (Dec.setUp_fits _ h)

theorem container_drop (cs rs ct crcVal : Word32) (payload : Buffer) : (container cs rs ct crcVal payload).drop hdrLen = payload := rfl

theorem Dec.opened_at (cs rs crcVal : Word32) (payload : Buffer) :
    (Dec.opened cs rs crcVal payload).At .ctrl ⟨cs, rs, tagCompressed, crcVal⟩ [] payload [] :=
  ⟨rfl, rfl, rfl, container_drop .., rfl, rfl, rfl⟩

/-- A `COMPRESSED` container within the limits answers with what the registers that its stream comes to answer. -/
theorem decompressResponse_of_stream {cfg : Config} {cs rs crcVal : Word32} {payload : Buffer} {d d' : Dec} {r : Response}
    (hlimit : rs.toNat ≤ cfg.maxOut) (hreach : Dec.Steps cfg (Dec.opened cs rs crcVal payload) d) (hend : d.tick cfg = .done d' r) :
    decompressResponse cfg (container cs rs tagCompressed crcVal payload) = .ok r :=
  decompressResponse_of_steps (.head (Dec.tick_start_compressed cs crcVal payload hlimit) hreach) hend

section
variable {d : Dec} (cfg : Config) {h : Header} {seen rest out : Buffer}

/-- A control byte opens its run at slot 0 (R164). -/
theorem Dec.At.tick_control {k : Byte} (hd : d.At .ctrl h seen (k :: rest) out) :
    ∃ d', d.tick cfg = .run d' ∧ d'.AtSlot h k 0 (seen ++ [k]) rest out := by
  have hin := hd.inside (List.cons_ne_nil _ _)
  rw [List.length_cons] at hin
  have hdec : decode (.control (d.inp.drop (hdrLen + seen.length))) = .ok (.ctrl k, rest) := by
    rw [hd.unread]
    rfl
  exact ⟨_, (Dec.tick_read (Dec.next_ctrl hd.phase hd.ip) hdec).trans (Dec.control_eq k hd.phase hd.ip (by omega)),
    hd.read (bs := [k]) rfl rfl ⟨rfl, rfl⟩ rfl rfl hd.dict hd.out, rfl, rfl⟩

section
variable {ctrl : Byte} {bit : Nat}

/-! What stands at a slot (R75, R79). -/

theorem Dec.AtSlot.decode_literal {b : Byte} (hs : d.AtSlot h ctrl bit seen (b :: rest) out) (hslot : ctrlBit ctrl bit = false) :
    decode (.body (ctrlBit ctrl bit) (Dict.new.pushAll out).wcur (d.inp.drop (hdrLen + seen.length))) = .ok (.lit b, rest) := by
  rw [hs.place.unread, hslot]
  rfl

section
variable {off : Off12} {code : BitVec 4} (hs : d.AtSlot h ctrl bit seen (refHigh off :: refLow off code :: rest) out)
  (hslot : ctrlBit ctrl bit = true)
include hs hslot

theorem Dec.AtSlot.decode_reference (hoff : off ≠ (Dict.new.pushAll out).wcur) :
    decode (.body (ctrlBit ctrl bit) (Dict.new.pushAll out).wcur (d.inp.drop (hdrLen + seen.length))) = .ok (.ref off code, rest) := by
  rw [hs.place.unread, hslot, decode_refBody, if_neg hoff]

theorem Dec.AtSlot.decode_eos (hoff : off = (Dict.new.pushAll out).wcur) :
    decode (.body (ctrlBit ctrl bit) (Dict.new.pushAll out).wcur (d.inp.drop (hdrLen + seen.length))) = .ok (.eos off code, rest) := by
  rw [hs.place.unread, hslot, decode_refBody, if_pos hoff]

end

variable (hbit : bit < runSlots)
include hbit

/-- A literal is written and its slot is done (R165). -/
theorem Dec.AtSlot.tick_literal {b : Byte} (hs : d.AtSlot h ctrl bit seen (b :: rest) out) (hslot : ctrlBit ctrl bit = false)
    (hroom : out.length ≠ h.rawSize.toNat) :
    ∃ d', d.tick cfg = .run d' ∧ d'.AtSlot h ctrl (bit + 1) (seen ++ [b]) rest (out ++ [b]) := by
  have ht := hs.atToken hbit
  have hin := hs.place.inside (List.cons_ne_nil _ _)
  rw [List.length_cons] at hin
  exact ⟨_, (Dec.tick_read ht.next (hs.decode_literal hslot)).trans (Dec.literal_eq ht b hslot (by omega) (hs.place.out ▸ hroom)),
    hs.place.read (bs := [b]) rfl rfl ⟨rfl, rfl⟩ rfl rfl
      (congrArg some (Dict.pushAll_append Dict.new out [b]).symm) (congrArg (· ++ [b]) hs.place.out), hs.ctrl, rfl⟩

/-- A literal beyond the declared size overflows (R168). -/
theorem Dec.AtSlot.tick_literal_overflow {b : Byte} (hs : d.AtSlot h ctrl bit seen (b :: rest) out) (hslot : ctrlBit ctrl bit = false)
    (hfull : out.length = h.rawSize.toNat) : ∃ d', d.tick cfg = .done d' (.err .outputOverflow) := by
  have ht := hs.atToken hbit
  have hin := hs.place.inside (List.cons_ne_nil _ _)
  rw [List.length_cons] at hin
  exact ⟨_, (Dec.tick_read ht.next (hs.decode_literal hslot)).trans
    (Dec.literal_overflow ht b hslot (by omega) (hs.place.out ▸ hfull))⟩

/-- A reference's bytes are written, in a step after which `DPHASE` is `COPY` (R166, R167). -/
theorem Dec.AtSlot.tick_reference {off : Off12} {code : BitVec 4} {bs : Buffer}
    (hs : d.AtSlot h ctrl bit seen (refHigh off :: refLow off code :: rest) out) (hslot : ctrlBit ctrl bit = true)
    (hoff : off ≠ (Dict.new.pushAll out).wcur) (hlen : bs.length = matchLength code) (hbs : (Dict.new.pushAll out).Copies off bs)
    (hfits : out.length + bs.length ≤ h.rawSize.toNat) :
    ∃ d', d.tick cfg = .run d' ∧ d'.At .copy h (seen ++ [refHigh off, refLow off code]) rest (out ++ bs) ∧
      d'.ctrl = some ctrl ∧ d'.bit = some bit := by
  have ht := hs.atToken hbit
  have hin := hs.place.inside (List.cons_ne_nil _ _)
  simp only [List.length_cons] at hin
  exact ⟨_, (Dec.tick_read ht.next (hs.decode_reference hslot hoff)).trans
    (Dec.reference_eq ht code hslot (by omega) hoff hlen hbs (hs.place.out ▸ hfits)),
    hs.place.read (bs := [refHigh off, refLow off code]) rfl rfl ⟨rfl, rfl⟩ rfl rfl
      (congrArg some (Dict.pushAll_append ..).symm) (congrArg (· ++ bs) hs.place.out), hs.ctrl, hs.bit⟩

/-- A reference body of which a byte is missing (R169). -/
theorem Dec.AtSlot.tick_reference_underrun (hs : d.AtSlot h ctrl bit seen rest out) (hslot : ctrlBit ctrl bit = true)
    (hshort : rest.length < 2) : d.tick cfg = .done d (.err (.inputUnderrun .referenceBody)) := by
  have hlen := hs.place.length_le
  exact Dec.tick_reference_underrun (hs.atToken hbit) hslot (by omega)

/-- A reference beyond the declared size overflows (R168). -/
theorem Dec.AtSlot.tick_reference_overflow {off : Off12} {code : BitVec 4}
    (hs : d.AtSlot h ctrl bit seen (refHigh off :: refLow off code :: rest) out) (hslot : ctrlBit ctrl bit = true)
    (hoff : off ≠ (Dict.new.pushAll out).wcur) (hout : out.length ≤ h.rawSize.toNat)
    (hover : h.rawSize.toNat < out.length + matchLength code) : ∃ d', d.tick cfg = .done d' (.err .outputOverflow) := by
  have ht := hs.atToken hbit
  have hin := hs.place.inside (List.cons_ne_nil _ _)
  simp only [List.length_cons] at hin
  exact ⟨_, (Dec.tick_read ht.next (hs.decode_reference hslot hoff)).trans
    (Dec.reference_overflow ht code hslot (by omega) hoff (hs.place.out ▸ hout) (hs.place.out ▸ hover))⟩

/-- A reference at the write cursor ends the token loop (R166). -/
theorem Dec.AtSlot.tick_eos {off : Off12} {code : BitVec 4} (hs : d.AtSlot h ctrl bit seen (refHigh off :: refLow off code :: rest) out)
    (hslot : ctrlBit ctrl bit = true) (hoff : off = (Dict.new.pushAll out).wcur) :
    ∃ d', d.tick cfg = .run d' ∧ d'.At .trail h (seen ++ [refHigh off, refLow off code]) rest out := by
  have ht := hs.atToken hbit
  have hin := hs.place.inside (List.cons_ne_nil _ _)
  simp only [List.length_cons] at hin
  exact ⟨_, (Dec.tick_read ht.next (hs.decode_eos hslot hoff)).trans (Dec.endOfStream_eq ht code hslot (by omega) hoff),
    hs.place.read (bs := [refHigh off, refLow off code]) rfl rfl ⟨rfl, rfl⟩ rfl rfl hs.place.dict hs.place.out⟩

end

/-- The step after a copy ends its slot (R160, R179). -/
theorem Dec.At.tick_endCopy {ctrl : Byte} {bit : Nat} (hd : d.At .copy h seen rest out) (hctrl : d.ctrl = some ctrl)
    (hbit : d.bit = some bit) : ∃ d', d.tick cfg = .run d' ∧ d'.AtSlot h ctrl (bit + 1) seen rest out :=
  ⟨_, Dec.tick_copy hd.phase hbit, { hd with phase := rfl }, hctrl, rfl⟩

/-- The trailing bytes are folded (R170). -/
theorem Dec.At.tick_trail (hd : d.At .trail h seen rest out) : ∃ d', d.tick cfg = .run d' ∧ d'.At .check h (seen ++ rest) [] out := by
  refine ⟨_, Dec.tick_trail hd.phase hd.ip, ?_⟩
  rw [hd.unread]
  exact hd.read (bs := rest) (List.append_nil _).symm rfl ⟨rfl, rfl⟩ rfl rfl hd.dict hd.out

/-- With the CRC and the length as declared the stream is done (R171, R172). -/
theorem Dec.At.tick_check (hd : d.At .check h seen rest out) (hcrc : crc 0 seen = h.crc) (hlen : out.length = h.rawSize.toNat) :
    ∃ d', d.tick cfg = .run d' ∧ d'.At .done h seen rest out :=
  ⟨_, Dec.tick_check_passed hd.phase hd.hdr (hd.acc.trans hcrc) (hd.out ▸ hlen), { hd with phase := rfl }⟩

/-- A stream that is done returns its output (R160). -/
theorem Dec.At.tick_done (hd : d.At .done h seen rest out) (htype : h.compType = tagCompressed) :
    d.tick cfg = .done d (.ok (.bytes out)) := by
  have htags : tagCompressed ≠ tagUncompressed := by decide
  rw [Dec.tick_done cfg hd.phase hd.hdr, Dec.result, htype, if_neg htags, hd.out]

end

end Sys2Proof.Machine
end

section
/-! SUPPORT. A payload as runs of tokens (30_encoding.md rules R74 to R79): what a token stream spells, and that `DECOMPRESS` of a payload that
spells a byte sequence returns it (44_decompressor.md rules R160 to R172). -/

namespace Sys2Proof.Machine

/-! ### Runs of tokens (R74 to R76) -/

/-- A token of the stream (R75): the EOS is the reference at the write cursor (R79). -/
inductive StreamToken where
  | literal (b : Byte)
  | reference (off : Off12) (code : BitVec 4)

/-- The body of a token (R76, R77). -/
def StreamToken.body : StreamToken → Buffer
  | .literal b => [b]
  | .reference off code => [refHigh off, refLow off code]

/-- The control bit of a token (R75). -/
def StreamToken.isReference : StreamToken → Bool
  | .literal _ => false
  | .reference _ _ => true

/-- The control byte of a run, the bit of slot 0 lowest (R75). -/
def runControl (ts : List StreamToken) : Byte := (BitVec.ofBoolListLE (ts.map StreamToken.isReference)).setWidth 8

/-- The bodies of a run in order. -/
def runBodies (ts : List StreamToken) : Buffer := ts.flatMap StreamToken.body

/-- A run on the wire: its control byte, then its bodies (R74). -/
def runBytes (ts : List StreamToken) : Buffer := runControl ts :: runBodies ts

theorem ctrlBit_runControl (ts : List StreamToken) {i : Nat} (hi : i < runSlots) :
    ctrlBit (runControl ts) i = (ts.map StreamToken.isReference).getD i false := by
  rw [ctrlBit, runControl, BitVec.getLsbD_setWidth, BitVec.getLsbD_ofBoolListLE, decide_eq_true hi, Bool.true_and]

/-- A token more adds its bit where it is a reference (R140, R142). -/
theorem runControl_append (ts : List StreamToken) (t : StreamToken) :
    runControl (ts ++ [t]) = if t.isReference then setCtrlBit (runControl ts) ts.length else runControl ts := by
  refine BitVec.eq_of_getLsbD_eq fun i hi => ?_
  have hbefore := ctrlBit_runControl ts hi
  have hafter := ctrlBit_runControl (ts ++ [t]) hi
  have hone : (1#8 <<< ts.length).getLsbD i = decide (i = ts.length) := by
    rw [← BitVec.twoPow_eq, BitVec.getLsbD_twoPow, ← Bool.decide_and, decide_eq_decide]
    omega
  have hbits : ((ts ++ [t]).map StreamToken.isReference).getD i false =
      ((ts.map StreamToken.isReference).getD i false || (decide (i = ts.length) && t.isReference)) := by
    rcases Nat.lt_trichotomy i ts.length with hlt | rfl | hgt
    · simp [List.getElem?_append_left, hlt, hlt.ne]
    · simp
    · simp [List.getElem?_eq_none, hgt.le, hgt.ne', Nat.succ_le_of_lt hgt]
  rw [ctrlBit] at hbefore hafter
  rw [hafter, hbits, ← hbefore]
  cases t.isReference <;> simp [setCtrlBit, hone]

theorem runBodies_append (ts us : List StreamToken) : runBodies (ts ++ us) = runBodies ts ++ runBodies us := List.flatMap_append

/-! ### What tokens spell (R165 to R168) -/

/-- What a token writes in a dictionary: a literal its byte, a reference the bytes of its copy (R165, R167). -/
def StreamToken.Writes (d : Dict) : StreamToken → Buffer → Prop
  | .literal b, bs => bs = [b]
  | .reference off code, bs => off ≠ d.wcur ∧ bs.length = matchLength code ∧ d.Copies off bs

/-- The bytes that tokens write, each in the dictionary that the tokens before it leave (R168). -/
inductive Spells : Dict → List StreamToken → Buffer → Prop where
  | nil {d : Dict} : Spells d [] []
  | cons {d : Dict} {t : StreamToken} {ts : List StreamToken} {as bs : Buffer} (ht : t.Writes d as)
      (hts : Spells (d.pushAll as) ts bs) : Spells d (t :: ts) (as ++ bs)

theorem Spells.single {d : Dict} {t : StreamToken} {bs : Buffer} (h : t.Writes d bs) : Spells d [t] bs :=
  List.append_nil bs ▸ Spells.cons h Spells.nil

theorem spells_append {d : Dict} {ts us : List StreamToken} {bs : Buffer} :
    Spells d (ts ++ us) bs ↔ ∃ as cs, bs = as ++ cs ∧ Spells d ts as ∧ Spells (d.pushAll as) us cs := by
  constructor
  · intro h
    induction ts generalizing d bs with
    | nil => exact ⟨[], bs, rfl, .nil, h⟩
    | cons t ts ih =>
      obtain _ | ⟨ht, hts⟩ := h
      obtain ⟨as, cs, rfl, has, hcs⟩ := ih hts
      exact ⟨_, cs, (List.append_assoc ..).symm, .cons ht has, by rwa [Dict.pushAll_append]⟩
  · rintro ⟨as, cs, rfl, has, hcs⟩
    induction has with
    | nil => exact hcs
    | cons ht _ ih =>
      rw [List.append_assoc]
      exact .cons ht (ih (by rwa [Dict.pushAll_append] at hcs))

/-- A payload of full runs and a last run that ends with the EOS (R74, R79), which spells `out` in a fresh dictionary. -/
structure PayloadSpells (payload out : Buffer) (runs : List (List StreamToken)) (last : List StreamToken) : Prop where
  full : ∀ ts ∈ runs, ts.length = runSlots
  room : last.length < runSlots
  spells : Spells Dict.new (runs.flatten ++ last) out
  bytes : payload = runs.flatMap runBytes ++ runBytes (last ++ [.reference (Dict.new.pushAll out).wcur 0])

/-! ### The decompressor on a run -/

section
variable {cfg : Config} {d : Dec} {h : Header} {seen rest out bs : Buffer}

/-- A token whose bytes fit the declared size is written. -/
theorem Dec.AtSlot.steps_token {ctrl : Byte} {bit : Nat} {t : StreamToken} (hs : d.AtSlot h ctrl bit seen (t.body ++ rest) out)
    (hbit : bit < runSlots) (hslot : ctrlBit ctrl bit = t.isReference) (ht : t.Writes (Dict.new.pushAll out) bs)
    (hfits : (out ++ bs).length ≤ h.rawSize.toNat) :
    ∃ d', Dec.Steps cfg d d' ∧ d'.AtSlot h ctrl (bit + 1) (seen ++ t.body) rest (out ++ bs) := by
  rw [List.length_append] at hfits
  cases t with
  | literal b =>
    cases ht
    rw [List.length_singleton] at hfits
    obtain ⟨d', hk, hd'⟩ := hs.tick_literal cfg hbit hslot (by omega)
    exact ⟨d', .single hk, hd'⟩
  | reference off code =>
    obtain ⟨hoff, hlen, hbs⟩ := ht
    obtain ⟨d₁, hk₁, hd₁, hctrl, hb⟩ := hs.tick_reference cfg hbit hslot hoff hlen hbs hfits
    obtain ⟨d', hk', hd'⟩ := hd₁.tick_endCopy cfg hctrl hb
    exact ⟨d', .head hk₁ (.single hk'), hd'⟩

/-- The tokens of a run from slot `bit` on, each behind its control bit, are written in order. -/
theorem Dec.AtSlot.steps_tokens {ctrl : Byte} {bit : Nat} {ts : List StreamToken}
    (hs : d.AtSlot h ctrl bit seen (runBodies ts ++ rest) out) (hbits : bit + ts.length ≤ runSlots)
    (hslots : ∀ i (hi : i < ts.length), ctrlBit ctrl (bit + i) = ts[i].isReference) (hts : Spells (Dict.new.pushAll out) ts bs)
    (hfits : (out ++ bs).length ≤ h.rawSize.toNat) :
    ∃ d', Dec.Steps cfg d d' ∧ d'.AtSlot h ctrl (bit + ts.length) (seen ++ runBodies ts) rest (out ++ bs) := by
  induction ts generalizing d bit seen out bs with
  | nil =>
    cases hts
    rw [List.append_nil]
    exact ⟨d, .refl, by simpa [runBodies] using hs⟩
  | cons t ts ih =>
    obtain _ | @⟨_, _, _, as, cs, ht, hts⟩ := hts
    rw [← List.append_assoc] at hfits ⊢
    rw [List.length_cons] at hbits
    simp only [runBodies, List.flatMap_cons, List.append_assoc] at hs
    obtain ⟨d₁, hk₁, hd₁⟩ := hs.steps_token (cfg := cfg) (by omega) (hslots 0 (Nat.zero_lt_succ _)) ht
      (Nat.le_trans (by simp) hfits)
    have hslots' : ∀ i (hi : i < ts.length), ctrlBit ctrl (bit + 1 + i) = ts[i].isReference := fun i hi => by
      simpa [Nat.add_assoc, Nat.add_comm 1 i] using hslots (i + 1) (Nat.succ_lt_succ hi)
    rw [← Dict.pushAll_append] at hts
    obtain ⟨d', hk', hd'⟩ := ih hd₁ (by omega) hslots' hts hfits
    refine ⟨d', hk₁.trans hk', ?_⟩
    simpa [runBodies, Nat.add_assoc, Nat.add_comm 1] using hd'

/-- Behind the control byte of a run that begins with them, tokens are written in order. -/
theorem Dec.At.steps_runBegun {ts us : List StreamToken} (hd : d.At .ctrl h seen (runControl (ts ++ us) :: (runBodies ts ++ rest)) out)
    (hlen : ts.length ≤ runSlots) (hts : Spells (Dict.new.pushAll out) ts bs) (hfits : (out ++ bs).length ≤ h.rawSize.toNat) :
    ∃ d', Dec.Steps cfg d d' ∧
      d'.AtSlot h (runControl (ts ++ us)) ts.length (seen ++ runControl (ts ++ us) :: runBodies ts) rest (out ++ bs) := by
  obtain ⟨d₁, hk₁, hd₁⟩ := hd.tick_control cfg
  have hslots : ∀ i (hi : i < ts.length), ctrlBit (runControl (ts ++ us)) (0 + i) = ts[i].isReference := fun i hi => by
    rw [Nat.zero_add, ctrlBit_runControl _ (Nat.lt_of_lt_of_le hi hlen)]
    simp [List.getD_eq_getElem?_getD, List.getElem?_append_left, hi]
  obtain ⟨d', hk', hd'⟩ := hd₁.steps_tokens (cfg := cfg) (by omega) hslots hts hfits
  exact ⟨d', .head hk₁ hk', by simpa using hd'⟩

/-- A full run is written, and the next control byte is due (R164). -/
theorem Dec.At.steps_run {ts : List StreamToken} (hd : d.At .ctrl h seen (runBytes ts ++ rest) out) (hfull : ts.length = runSlots)
    (hts : Spells (Dict.new.pushAll out) ts bs) (hfits : (out ++ bs).length ≤ h.rawSize.toNat) :
    ∃ d', Dec.Steps cfg d d' ∧ d'.At .ctrl h (seen ++ runBytes ts) rest (out ++ bs) := by
  obtain ⟨d', hk, hd'⟩ := Dec.At.steps_runBegun (cfg := cfg) (us := []) (by rwa [List.append_nil]) hfull.le hts hfits
  have hplace := hd'.place
  rw [hfull, if_neg (Nat.lt_irrefl _), List.append_nil] at hplace
  exact ⟨d', hk, hplace⟩

theorem Dec.At.steps_runs {runs : List (List StreamToken)} (hd : d.At .ctrl h seen (runs.flatMap runBytes ++ rest) out)
    (hfull : ∀ ts ∈ runs, ts.length = runSlots) (hruns : Spells (Dict.new.pushAll out) runs.flatten bs)
    (hfits : (out ++ bs).length ≤ h.rawSize.toNat) :
    ∃ d', Dec.Steps cfg d d' ∧ d'.At .ctrl h (seen ++ runs.flatMap runBytes) rest (out ++ bs) := by
  induction runs generalizing d seen out bs with
  | nil =>
    cases hruns
    exact ⟨d, .refl, by simpa using hd⟩
  | cons ts runs ih =>
    rw [List.flatten_cons, spells_append] at hruns
    obtain ⟨as, cs, rfl, hts, hruns⟩ := hruns
    rw [← Dict.pushAll_append] at hruns
    rw [← List.append_assoc] at hfits ⊢
    rw [List.flatMap_cons, List.append_assoc] at hd
    obtain ⟨d₁, hk₁, hd₁⟩ := hd.steps_run (cfg := cfg) (hfull ts (List.mem_cons_self ..)) hts (Nat.le_trans (by simp) hfits)
    obtain ⟨d', hk', hd'⟩ := ih hd₁ (fun us hus => hfull us (List.mem_cons_of_mem _ hus)) hruns hfits
    refine ⟨d', hk₁.trans hk', ?_⟩
    simpa using hd'

/-- A last run, whose EOS ends the payload, leads to the end of the stream (R166, R170). -/
theorem Dec.At.steps_lastRun {last : List StreamToken}
    (hd : d.At .ctrl h seen (runBytes (last ++ [.reference (Dict.new.pushAll (out ++ bs)).wcur 0])) out) (hroom : last.length < runSlots)
    (hlast : Spells (Dict.new.pushAll out) last bs) (hfits : (out ++ bs).length ≤ h.rawSize.toNat) :
    ∃ d', Dec.Steps cfg d d' ∧
      d'.At .check h (seen ++ runBytes (last ++ [.reference (Dict.new.pushAll (out ++ bs)).wcur 0])) [] (out ++ bs) := by
  rw [runBytes, runBodies_append] at hd ⊢
  obtain ⟨d₁, hk₁, hd₁⟩ := hd.steps_runBegun (cfg := cfg) hroom.le hlast hfits
  have hslot : ctrlBit (runControl (last ++ [.reference (Dict.new.pushAll (out ++ bs)).wcur 0])) last.length = true := by
    rw [ctrlBit_runControl _ hroom]
    simp [StreamToken.isReference]
  obtain ⟨d₂, hk₂, hd₂⟩ := Dec.AtSlot.tick_eos (rest := []) cfg hroom hd₁ hslot rfl
  obtain ⟨d', hk', hd'⟩ := hd₂.tick_trail cfg
  refine ⟨d', (hk₁.tail hk₂).tail hk', ?_⟩
  simpa [runBodies, StreamToken.body] using hd'

/-- A payload that spells a byte sequence within the declared size leads from its start to its end (R164 to R170). -/
theorem Dec.At.steps_payload {payload : Buffer} {runs : List (List StreamToken)} {last : List StreamToken}
    (hd : d.At .ctrl h [] payload []) (hpayload : PayloadSpells payload out runs last) (hfits : out.length ≤ h.rawSize.toNat) :
    ∃ d', Dec.Steps cfg d d' ∧ d'.At .check h payload [] out := by
  obtain ⟨hfull, hroom, hspells, rfl⟩ := hpayload
  obtain ⟨as, bs, rfl, hruns, hlast⟩ := spells_append.mp hspells
  obtain ⟨d₁, hk₁, hd₁⟩ := hd.steps_runs (cfg := cfg) hfull hruns (Nat.le_trans (by simp) hfits)
  obtain ⟨d', hk', hd'⟩ := hd₁.steps_lastRun (cfg := cfg) hroom hlast hfits
  exact ⟨d', hk₁.trans hk', hd'⟩

end

/-- `DECOMPRESS` returns what a payload spells, where its header declares its CRC and the length of what it spells. -/
theorem decompressResponse_of_payloadSpells {cfg : Config} {payload out : Buffer} {runs : List (List StreamToken)}
    {last : List StreamToken} (hpayload : PayloadSpells payload out runs last) (cs : Word32) (hfield : out.length ≤ maxField)
    (hlimit : out.length ≤ cfg.maxOut) :
    decompressResponse cfg (container cs (BitVec.ofNat 32 out.length) tagCompressed (crc 0 payload) payload) =
      .ok (.ok (.bytes out)) := by
  have hraw : (BitVec.ofNat 32 out.length).toNat = out.length := by
    rw [BitVec.toNat_ofNat, Nat.mod_eq_of_lt (Nat.lt_of_le_of_lt hfield (by decide))]
  have hopened := Dec.opened_at cs (BitVec.ofNat 32 out.length) (crc 0 payload) payload
  obtain ⟨d₁, hk₁, hd₁⟩ := hopened.steps_payload (cfg := cfg) hpayload hraw.ge
  obtain ⟨d₂, hk₂, hd₂⟩ := hd₁.tick_check cfg rfl hraw.symm
  exact decompressResponse_of_stream (hraw.trans_le hlimit) (hk₁.tail hk₂) (hd₂.tick_done cfg rfl)

end Sys2Proof.Machine
end

section
/-! SUPPORT. The all-literal payload (30_encoding.md rules R74 to R76) as runs of tokens. -/

namespace Sys2Proof.Machine

/-- The control byte of literals alone has no bit set. -/
theorem runControl_literals (bs : Buffer) : runControl (bs.map .literal) = 0x00#8 := by
  induction bs using List.reverseRecOn with
  | nil => rfl
  | append_singleton bs b ih => rw [List.map_append, List.map_singleton, runControl_append, ih]; rfl

/-! ### Literals -/

theorem spells_literals (d : Dict) (bs : Buffer) : Spells d (bs.map .literal) bs := by
  induction bs generalizing d with
  | nil => exact .nil
  | cons b bs ih => exact .cons (as := [b]) rfl (ih _)

theorem runBodies_literals (bs : Buffer) : runBodies (bs.map .literal) = bs := by
  simp [runBodies, List.flatMap_map, StreamToken.body]

theorem cursorAfter_eq (bs : Buffer) : cursorAfter bs = (Dict.new.pushAll bs).wcur := by
  rw [Dict.pushAll_wcur, cursorAfter, BitVec.ofNat_add]
  rfl

theorem literalPayload_full (w : Off12) {bs : Buffer} (rest : Buffer) (h : bs.length = runSlots) :
    literalPayload w (bs ++ rest) = runBytes (bs.map .literal) ++ literalPayload w rest := by
  rw [runBytes, runControl_literals, runBodies_literals]
  match bs, h with
  | [b0, b1, b2, b3, b4, b5, b6, b7], _ => rfl

theorem literalPayload_last (w : Off12) {bs : Buffer} (h : bs.length < runSlots) :
    literalPayload w bs = runBytes (bs.map .literal ++ [.reference w 0]) := by
  rw [runBytes, runControl_append, runControl_literals, runBodies_append, runBodies_literals]
  unfold literalPayload
  split
  next => simp only [List.length_cons, runSlots] at h; omega
  next => simp [StreamToken.isReference, setCtrlBit, runBodies, StreamToken.body]

/-- The all-literal payload of a sequence is full runs of literals and a last run of the rest and the EOS. -/
theorem literalPayload_eq_runs (w : Off12) (bs : Buffer) :
    ∃ (runs : List (List StreamToken)) (last : List StreamToken), (∀ ts ∈ runs, ts.length = runSlots) ∧ last.length < runSlots ∧
      runs.flatten ++ last = bs.map .literal ∧
      literalPayload w bs = runs.flatMap runBytes ++ runBytes (last ++ [.reference w 0]) := by
  induction hn : bs.length using Nat.strong_induction_on generalizing bs with
  | _ n ih =>
    rcases Nat.lt_or_ge bs.length runSlots with hshort | hlong
    · exact ⟨[], bs.map .literal, by simp, by simpa using hshort, rfl, literalPayload_last w hshort⟩
    · have hrun : (bs.take runSlots).length = runSlots := List.length_take_of_le hlong
      have hless : (bs.drop runSlots).length < n := by
        rw [List.length_drop, ← hn]
        exact Nat.sub_lt (Nat.lt_of_lt_of_le (by decide) hlong) (by decide)
      obtain ⟨runs, last, hfull, hroom, htokens, hbytes⟩ := ih _ hless (bs.drop runSlots) rfl
      refine ⟨(bs.take runSlots).map .literal :: runs, last, ?_, hroom, ?_, ?_⟩
      · simpa [hlong] using hfull
      · rw [List.flatten_cons, List.append_assoc, htokens, ← List.map_append, List.take_append_drop]
      · rw [List.flatMap_cons, List.append_assoc, ← hbytes, ← literalPayload_full w _ hrun, List.take_append_drop]

/-- The all-literal payload of a sequence spells it. -/
theorem literalPayload_spells (bs : Buffer) : ∃ runs last, PayloadSpells (literalPayload (cursorAfter bs) bs) bs runs last := by
  obtain ⟨runs, last, hfull, hroom, htokens, hbytes⟩ := literalPayload_eq_runs (cursorAfter bs) bs
  refine ⟨runs, last, hfull, hroom, ?_, ?_⟩
  · rw [htokens]
    exact spells_literals Dict.new bs
  · rw [hbytes, cursorAfter_eq]

end Sys2Proof.Machine
end

section
/-! SUPPORT. What a `DECOMPRESS` of any payload can answer (44_decompressor.md rules R163 to R175): every step of its stream keeps the bounds of
R168 and R175 and the CRC of what has been read, and only a stream whose checks pass returns an output. -/

namespace Sys2Proof.Machine

/-- The stages of a stream with the registers that each reads (R160, R179). -/
inductive Dec.Stage (d : Dec) (h : Header) (seen rest out : Buffer) : Prop where
  | control (hd : d.At .ctrl h seen rest out)
  | slot {ctrl : Byte} {bit : Nat} (hs : d.AtSlot h ctrl bit seen rest out) (hbit : bit < runSlots)
  | copy {ctrl : Byte} {bit : Nat} (hd : d.At .copy h seen rest out) (hctrl : d.ctrl = some ctrl) (hbit : d.bit = some bit)
  | trail (hd : d.At .trail h seen rest out)
  | check (hd : d.At .check h seen rest out) (hend : rest = [])
  | done (hd : d.At .done h seen rest out) (hend : rest = []) (hcrc : crc 0 seen = h.crc) (hlen : out.length = h.rawSize.toNat)

/-- A decompressor in the stream of a payload: no more is written than the header declares (R168), and at most 17 bytes for each byte
read (R175). -/
structure Dec.StreamsAt (d : Dec) (h : Header) (payload seen rest out : Buffer) : Prop where
  split : payload = seen ++ rest
  declared : out.length ≤ h.rawSize.toNat
  bounded : out.length ≤ 17 * seen.length
  stage : d.Stage h seen rest out

/-- A decompressor in the stream of a payload, wherever it stands there. -/
def Dec.Streams (h : Header) (payload : Buffer) (d : Dec) : Prop := ∃ seen rest out, d.StreamsAt h payload seen rest out

/-- What the stream of a payload can answer: an output behind the checks of R171 and R172, or one of the three kinds of error. -/
inductive StreamResponse (h : Header) (payload : Buffer) : Response → Prop where
  | accepted {out : Buffer} (hcrc : crc 0 payload = h.crc) (hlen : out.length = h.rawSize.toNat)
      (hbound : out.length ≤ 17 * payload.length) : StreamResponse h payload (.ok (.bytes out))
  | mismatch : StreamResponse h payload (.err .checksumMismatch)
  | overflow : StreamResponse h payload (.err .outputOverflow)
  | underrun (sub : UnderrunSub) : StreamResponse h payload (.err (.inputUnderrun sub))

theorem Dec.AtSlot.stage {d : Dec} {h : Header} {ctrl : Byte} {bit : Nat} {seen rest out : Buffer}
    (hs : d.AtSlot h ctrl bit seen rest out) : d.Stage h seen rest out := by
  by_cases hbit : bit < runSlots
  · exact .slot hs hbit
  · have hplace := hs.place
    rw [if_neg hbit] at hplace
    exact .control hplace

section
variable {cfg : Config} {d : Dec} {h : Header} {payload seen rest out : Buffer}

/-- Reading `bs` and writing `ws` goes on within the bounds. -/
theorem Dec.StreamsAt.next {d' : Dec} {bs rest' ws : Buffer} (hd : d.StreamsAt h payload seen rest out) (hrest : rest = bs ++ rest')
    (hfits : (out ++ ws).length ≤ h.rawSize.toNat) (hshort : ws.length ≤ 17 * bs.length)
    (hstage : d'.Stage h (seen ++ bs) rest' (out ++ ws)) : d'.Streams h payload := by
  have hbounded := hd.bounded
  refine ⟨_, _, _, by rw [hd.split, hrest, List.append_assoc], hfits, ?_, hstage⟩
  simp only [List.length_append]
  omega

/-- A step that writes nothing goes on within the bounds. -/
theorem Dec.StreamsAt.next_silent {d' : Dec} {bs rest' : Buffer} (hd : d.StreamsAt h payload seen rest out) (hrest : rest = bs ++ rest')
    (hstage : d'.Stage h (seen ++ bs) rest' out) : d'.Streams h payload :=
  hd.next (ws := []) hrest (by simpa using hd.declared) (Nat.zero_le _) (by rwa [List.append_nil])

theorem Dec.StreamsAt.leads_control (hd : d.StreamsAt h payload seen rest out) (hp : d.At .ctrl h seen rest out) :
    (d.tick cfg).Leads (Dec.Streams h payload) (StreamResponse h payload) := by
  cases rest with
  | nil => exact .of_done (Dec.tick_control_underrun hp.phase hp.ip hp.length_le) (.underrun _)
  | cons k rest =>
    obtain ⟨d', hk, hd'⟩ := hp.tick_control cfg
    exact .of_run hk (hd.next_silent (bs := [k]) rfl hd'.stage)

section
variable {ctrl : Byte} {bit : Nat} (hd : d.StreamsAt h payload seen rest out) (hs : d.AtSlot h ctrl bit seen rest out)
  (hbit : bit < runSlots)
include hd hs hbit

theorem Dec.StreamsAt.leads_literal (hslot : ctrlBit ctrl bit = false) :
    (d.tick cfg).Leads (Dec.Streams h payload) (StreamResponse h payload) := by
  have hdeclared := hd.declared
  cases rest with
  | nil => exact .of_done (Dec.tick_literal_underrun (hs.atToken hbit) hslot hs.place.length_le) (.underrun _)
  | cons b rest =>
    by_cases hfull : out.length = h.rawSize.toNat
    · obtain ⟨d', hk⟩ := hs.tick_literal_overflow cfg hbit hslot hfull
      exact .of_done hk .overflow
    · obtain ⟨d', hk, hd'⟩ := hs.tick_literal cfg hbit hslot hfull
      refine .of_run hk (hd.next (bs := [b]) rfl ?_ (by simp) hd'.stage)
      rw [List.length_append, List.length_singleton]
      omega

theorem Dec.StreamsAt.leads_reference (hslot : ctrlBit ctrl bit = true) :
    (d.tick cfg).Leads (Dec.Streams h payload) (StreamResponse h payload) := by
  match rest, hd, hs with
  | [], _, hs => exact .of_done (hs.tick_reference_underrun cfg hbit hslot Nat.two_pos) (.underrun _)
  | [_], _, hs => exact .of_done (hs.tick_reference_underrun cfg hbit hslot Nat.one_lt_two) (.underrun _)
  | b0 :: b1 :: rest, hd, hs =>
    obtain ⟨off, code, rfl, rfl⟩ := exists_refBody b0 b1
    by_cases hoff : off = (Dict.new.pushAll out).wcur
    · obtain ⟨d', hk, hd'⟩ := hs.tick_eos cfg hbit hslot hoff
      exact .of_run hk (hd.next_silent (bs := [refHigh off, refLow off code]) rfl (.trail hd'))
    · rcases Nat.lt_or_ge h.rawSize.toNat (out.length + matchLength code) with hover | hfits
      · obtain ⟨d', hk⟩ := hs.tick_reference_overflow cfg hbit hslot hoff hd.declared hover
        exact .of_done hk .overflow
      · obtain ⟨d', hk, hd', hctrl, hb⟩ := hs.tick_reference cfg hbit hslot hoff (copied_length ..) (copied_copies off _ _)
          (by rwa [copied_length])
        refine .of_run hk (hd.next (bs := [refHigh off, refLow off code]) rfl ?_ ?_ (.copy hd' hctrl hb))
        · rwa [List.length_append, copied_length]
        · have hlen := matchLength_le code
          simp only [copied_length, List.length_cons, List.length_nil]
          omega

end

theorem Dec.StreamsAt.leads_check (hd : d.StreamsAt h payload seen rest out) (hp : d.At .check h seen rest out) (hend : rest = []) :
    (d.tick cfg).Leads (Dec.Streams h payload) (StreamResponse h payload) := by
  by_cases hcrc : crc 0 seen = h.crc
  · by_cases hlen : out.length = h.rawSize.toNat
    · obtain ⟨d', hk, hd'⟩ := hp.tick_check cfg hcrc hlen
      exact .of_run hk ⟨seen, rest, out, hd.split, hd.declared, hd.bounded, .done hd' hend hcrc hlen⟩
    · exact .of_done (Dec.tick_check_short hp.phase hp.hdr (hp.acc.trans hcrc) (hp.out ▸ hlen)) (.underrun _)
  · exact .of_done (Dec.tick_check_mismatch hp.phase hp.hdr (hp.acc ▸ hcrc)) .mismatch

/-- A step in the stream of a `COMPRESSED` container stays in it, or ends with one of its responses. -/
theorem Dec.Streams.leads (htype : h.compType = tagCompressed) (hd : d.Streams h payload) :
    (d.tick cfg).Leads (Dec.Streams h payload) (StreamResponse h payload) := by
  obtain ⟨seen, rest, out, hd⟩ := hd
  cases hd.stage with
  | control hp => exact hd.leads_control hp
  | @slot ctrl bit hs hbit =>
    cases hslot : ctrlBit ctrl bit with
    | false => exact hd.leads_literal hs hbit hslot
    | true => exact hd.leads_reference hs hbit hslot
  | copy hp hctrl hb =>
    obtain ⟨d', hk, hd'⟩ := hp.tick_endCopy cfg hctrl hb
    exact .of_run hk ⟨seen, rest, out, hd.split, hd.declared, hd.bounded, hd'.stage⟩
  | trail hp =>
    obtain ⟨d', hk, hd'⟩ := hp.tick_trail cfg
    exact .of_run hk (hd.next_silent (List.append_nil _).symm (.check hd' rfl))
  | check hp hend => exact hd.leads_check hp hend
  | done hp hend hcrc hlen =>
    obtain rfl : payload = seen := by rw [hd.split, hend, List.append_nil]
    exact .of_done (hp.tick_done cfg htype) (.accepted hcrc hlen hd.bounded)

end

/-- What `DECOMPRESS` answers to a `COMPRESSED` container whose declared size is within `MAX_OUT`. -/
theorem decompressResponse_stream {cfg : Config} {rs : Word32} (cs crcVal : Word32) (payload : Buffer) (hlimit : rs.toNat ≤ cfg.maxOut) :
    ∃ r, decompressResponse cfg (container cs rs tagCompressed crcVal payload) = .ok r ∧
      StreamResponse ⟨cs, rs, tagCompressed, crcVal⟩ payload r := by
  obtain ⟨n, d', r, hr, hends⟩ := exists_decompress_ends cfg (container cs rs tagCompressed crcVal payload)
  obtain ⟨n', hends⟩ := hends.of_run (Dec.tick_start_compressed cs crcVal payload hlimit)
  have hopened : (Dec.opened cs rs crcVal payload).Streams ⟨cs, rs, tagCompressed, crcVal⟩ payload :=
    ⟨[], payload, [], rfl, Nat.zero_le _, Nat.zero_le _, .control (Dec.opened_at ..)⟩
  exact ⟨r, hr, hends.response (fun _ => Dec.Streams.leads rfl) hopened⟩

/-- An accepted `COMPRESSED` container declares a size within `MAX_OUT` and passes the checks of its stream (R162, R171, R172). -/
theorem accepted_of_exec {cs rs crcVal : Word32} {payload out : Buffer} {s : State}
    (h : exec (.decompress (container cs rs tagCompressed crcVal payload)) s = .next (s.finish (.ok (.bytes out)))) :
    rs.toNat ≤ s.cfg.maxOut ∧ StreamResponse ⟨cs, rs, tagCompressed, crcVal⟩ payload (.ok (.bytes out)) := by
  have hok := decompressResponse_of_exec h
  have hlimit : rs.toNat ≤ s.cfg.maxOut := by
    by_contra hover
    have herr := exec_dCommand_of_header (cmd := .decompress) (payload := payload) (s := s) (headerOf_compressed cs rs crcVal)
      ((Dec.headerLZFu_decompress rfl cs rs crcVal s.cfg rfl).trans (Dec.setUp_overLimit _ (Nat.lt_of_not_le hover)))
    have hclash := s.finish_injective (Host.Outcome.next.inj (h.symm.trans herr))
    cases hclash
  obtain ⟨r, hr, hresponse⟩ := decompressResponse_stream cs crcVal payload hlimit
  cases hok.symm.trans hr
  exact ⟨hlimit, hresponse⟩

end Sys2Proof.Machine
end

section
/-! SUPPORT. What a search's match copies (70_reset_and_hazards.md rule R238): while the ring is not full and a search's pushes do not pass its
end, a candidate reads no byte that the decompressor's copy would not have pushed by then. -/

namespace Sys2Proof.Machine

/-! ### The live ring and the copy's ring (R238) -/

theorem take_append_drop_take (bs : Buffer) {i k : Nat} (h : i ≤ k) : bs.take i ++ (bs.take k).drop i = bs.take k := by
  conv_rhs => rw [← List.take_append_drop i (bs.take k), List.take_take, min_eq_left h]

/-- The live ring of a search that has pushed its best match: the upcoming bytes up to the longer of the two are pushed. -/
theorem liveRing_of_pushed {d : Dict} {upcoming : Buffer} {s : Search} (hs : s.Pushed d upcoming) (i : Nat) :
    liveRing s.dict upcoming s.best i = d.pushAll (upcoming.take (max s.best i)) := by
  obtain ⟨-, hdict⟩ := hs
  rw [liveRing, hdict, ← Dict.pushAll_append]
  rcases Nat.le_total s.best i with hle | hle
  · rw [max_eq_right hle, take_append_drop_take upcoming hle]
  · rw [max_eq_left hle, List.drop_eq_nil_of_le ((List.length_take_le ..).trans hle), List.append_nil]

/-- What a candidate below the cursor reads at step `i` is not changed by the pushes from the `i`-th on, where they end within the
ring. -/
theorem Dict.read_pushAll_take {d : Dict} {o : Off12} {bs : Buffer} {i k : Nat} (ho : o.toNat < d.wcur.toNat) (hik : i ≤ k)
    (hend : d.wcur.toNat + k ≤ dictSize) :
    (d.pushAll (bs.take k)).read (o + BitVec.ofNat 12 i) = (d.pushAll (bs.take i)).read (o + BitVec.ofNat 12 i) := by
  rw [← take_append_drop_take bs hik, Dict.pushAll_append]
  refine Dict.read_pushAll_other fun j hj => ?_
  simp only [List.length_drop, List.length_take] at hj
  rw [Dict.pushAll_wcur, List.length_take_of_le (by omega)]
  rw [dictSize] at hend
  bv_omega

/-! ### A search's match (R136, R137) -/

/-- What every stage of a search from `d` keeps: a copy from the best offset reads the bytes of the match. -/
def Search.Copyable (d : Dict) (upcoming : Buffer) (s : Search) : Prop := d.Copies s.bestOff (upcoming.take s.best)

theorem tryCandidate_copyable {d : Dict} {upcoming : Buffer} {s : Search} {o : Off12} (hs : s.Pushed d upcoming)
    (hcopy : s.Copyable d upcoming) (ho : o.toNat < d.wcur.toNat) (hend : d.wcur.toNat + upcoming.length ≤ dictSize + 1) :
    (tryCandidate upcoming o s).Copyable d upcoming := by
  obtain ⟨hlen, -⟩ := matchFrom_spec o s.best upcoming s.dict
  rw [Search.Copyable, tryCandidate_best, tryCandidate_bestOff]
  generalize (matchFrom o s.best upcoming 0 s.dict).1 = len at hlen
  have hwithin := hlen.within
  split
  next hlonger =>
    rw [max_eq_right hlonger.le]
    intro i hi
    rw [List.length_take_of_le hwithin] at hi
    have hagrees := hlen.agrees i hi
    rw [liveRing_of_pushed hs, Dict.read_pushAll_take ho (le_max_right ..) (by omega)] at hagrees
    rw [List.take_take, min_eq_left hi.le, hagrees]
    simp [List.getD_eq_getElem?_getD, hi]
  next hshort => rwa [max_eq_left (Nat.le_of_not_lt hshort)]

/-- A search while the ring is not full, whose pushes end within it, finds a match that a copy gives back. -/
theorem searchAll_copyable {d : Dict} {upcoming : Buffer} (hfill : d.fill.toNat = d.wcur.toNat)
    (hend : d.wcur.toNat + upcoming.length ≤ dictSize + 1) : (searchAll d upcoming).Copyable d upcoming := by
  have hnotFull : d.fill.toNat ≠ dictSize := by
    rw [hfill, dictSize]
    omega
  have hstart : Search.Copyable d upcoming { dict := d, best := 0, bestOff := 0, m := none } :=
    fun i hi => absurd hi (by simp)
  have hall := List.foldlRecOn (motive := fun s => s.Pushed d upcoming ∧ s.Copyable d upcoming) (candidates d)
    (fun s o => tryCandidate upcoming o s) ⟨⟨Nat.zero_le _, rfl⟩, hstart⟩ fun s ⟨hpushed, hcopy⟩ o ho =>
      ⟨tryCandidate_pushed hpushed o, tryCandidate_copyable hpushed hcopy (hfill ▸ (mem_candidates ho).2 hnotFull) hend⟩
  rw [searchAll_eq_foldl]
  exact hall.2

/-- The reference that the compressor emits for such a match writes the bytes of the match (R142, R167). -/
theorem searchAll_writes {d : Dict} {upcoming : Buffer} (hfill : d.fill.toNat = d.wcur.toNat)
    (hend : d.wcur.toNat + upcoming.length ≤ dictSize + 1) (hmax : upcoming.length ≤ maxMatch)
    (hlong : minMatch ≤ (searchAll d upcoming).best) :
    (StreamToken.reference (searchAll d upcoming).bestOff (lengthCode (searchAll d upcoming).best)).Writes d
      (upcoming.take (searchAll d upcoming).best) := by
  obtain ⟨hbest, -⟩ := searchAll_pushed d upcoming
  have hpos : (searchAll d upcoming).best ≠ 0 := Nat.ne_of_gt (Nat.lt_of_lt_of_le (by decide) hlong)
  refine ⟨(mem_candidates (searchAll_offered d upcoming hpos)).1, ?_, searchAll_copyable hfill hend⟩
  rw [List.length_take_of_le hbest, matchLength_lengthCode hlong (hbest.trans hmax)]

/-- The dictionary after the bytes of a short sequence: the ring is not full, and cursor and fill stand after them (R139). -/
theorem Dict.new_pushAll_cursor {bs : Buffer} (h : seedLen + bs.length < dictSize) :
    (Dict.new.pushAll bs).wcur.toNat = seedLen + bs.length ∧ (Dict.new.pushAll bs).fill.toNat = seedLen + bs.length := by
  rw [seedLen, dictSize] at h
  refine ⟨?_, ?_⟩
  · rw [Dict.pushAll_wcur, Dict.new, ← BitVec.ofNat_add, BitVec.toNat_ofNat, Nat.mod_eq_of_lt (by simpa using h)]
  · rw [Dict.pushAll_fill_toNat (by decide), Dict.new, BitVec.toNat_ofNat, dictSize]
    simp only [seedLen]
    omega

end Sys2Proof.Machine
end

section
/-! SUPPORT. The payload that a `COMPRESS` builds spells its input, where no search meets the hazard of 70_reset_and_hazards.md rule R238: what
each step of the token loop (43_compressor.md rule R133) adds to the runs on the wire and to the bytes they spell. -/

namespace Sys2Proof.Machine

/-! ### Runs in the making -/

/-- Full runs on the wire that spell the input consumed (R133). -/
structure Comp.Wrote (c : Comp) (runs : List (List StreamToken)) : Prop where
  full : ∀ ts ∈ runs, ts.length = runSlots
  spells : Spells Dict.new runs.flatten (c.inp.take c.ip)
  out : c.out = headerPlaceholder ++ runs.flatMap runBytes
  within : c.ip ≤ c.inp.length

/-- A run in progress behind full ones: its control byte is still the placeholder in `OUT`, and `CTRL` holds the bits so far (R133). -/
structure Comp.InRun (c : Comp) (runs : List (List StreamToken)) (ts : List StreamToken) : Prop where
  full : ∀ ts ∈ runs, ts.length = runSlots
  room : ts.length < runSlots
  spells : Spells Dict.new (runs.flatten ++ ts) (c.inp.take c.ip)
  slot : c.slot = some ts.length
  ctrl : c.ctrl = some (runControl ts)
  ctrlPos : c.ctrlPos = some (headerPlaceholder ++ runs.flatMap runBytes).length
  out : c.out = headerPlaceholder ++ runs.flatMap runBytes ++ 0x00#8 :: runBodies ts
  within : c.ip ≤ c.inp.length

/-- The dictionary holds the input consumed (R139). -/
def Comp.Synced (c : Comp) : Prop := c.dict = some (Dict.new.pushAll (c.inp.take c.ip))

/-- The registers after a search (R134 to R139): the bytes of the token to be emitted are pushed, and a match of two bytes or more is
what its reference writes. -/
structure Comp.Found (c : Comp) (n : Nat) (off : Off12) : Prop where
  best : c.best = some n
  bestOff : c.bestOff = some off
  inside : c.ip + max 1 n ≤ c.inp.length
  dict : c.dict = some (Dict.new.pushAll (c.inp.take (c.ip + max 1 n)))
  writes : minMatch ≤ n →
    (StreamToken.reference off (lengthCode n)).Writes (Dict.new.pushAll (c.inp.take c.ip)) ((c.inp.drop c.ip).take n)

/-- What `EMIT` finds: the input used up, or what the search of its token left (R133). -/
inductive Comp.Searched (c : Comp) : Prop where
  | atEnd (hend : c.ip = c.inp.length) (hsynced : c.Synced)
  | token {n : Nat} {off : Off12} (hfound : c.Found n off)

theorem Comp.Searched.found {c : Comp} {n : Nat} {off : Off12} (h : c.Searched) (hleft : c.ip ≠ c.inp.length) (hbest : c.best = some n)
    (hoff : c.bestOff = some off) : c.Found n off := by
  cases h with
  | atEnd hend => exact absurd hend hleft
  | token hfound =>
    cases hbest.symm.trans hfound.best
    cases hoff.symm.trans hfound.bestOff
    exact hfound

theorem Comp.Searched.synced {c : Comp} (h : c.Searched) (hend : c.ip = c.inp.length) : c.Synced := by
  cases h with
  | atEnd _ hsynced => exact hsynced
  | token hfound =>
    have hin := hfound.inside
    omega

/-- What the token loop keeps: the runs in `OUT` spell the input consumed. -/
def Comp.Spelling (c : Comp) : Prop :=
  match c.phase with
  | .runStart => ∃ runs, c.Wrote runs ∧ c.Synced
  | .search => ∃ runs ts, c.InRun runs ts ∧ c.Synced
  | .emit => ∃ runs ts, c.InRun runs ts ∧ c.Searched
  | .finalize => ∃ runs last, PayloadSpells (c.out.drop hdrLen) c.inp runs last
  | .idle | .check | .done => True

theorem Comp.opened_spelling (data : Buffer) : (Comp.opened data).Spelling :=
  ⟨[], ⟨by simp, .nil, by simp [Comp.opened], Nat.zero_le _⟩, rfl⟩

/-- A token of a run in progress that writes the next bytes of the input, and whose search has pushed them: the next slot's search, or
the end of the run. -/
theorem Comp.InRun.emit {c c' : Comp} {runs : List (List StreamToken)} {ts : List StreamToken} {t : StreamToken} {n : Nat}
    (h : c.InRun runs ts) (ht : t.Writes (Dict.new.pushAll (c.inp.take c.ip)) ((c.inp.drop c.ip).take n))
    (hinp : c'.inp = c.inp) (hip : c'.ip = c.ip + n) (hin : c.ip + n ≤ c.inp.length)
    (hdict : c'.dict = some (Dict.new.pushAll (c.inp.take (c.ip + n)))) (hout : c'.out = c.out ++ t.body)
    (hctrl : c'.ctrl = some (runControl (ts ++ [t]))) (hpos : c'.ctrlPos = c.ctrlPos) :
    (c'.afterToken (runControl (ts ++ [t])) ts.length (headerPlaceholder ++ runs.flatMap runBytes).length).Spelling := by
  have hspells : Spells Dict.new (runs.flatten ++ (ts ++ [t])) (c'.inp.take c'.ip) := by
    rw [hinp, hip, List.take_add, ← List.append_assoc]
    exact spells_append.mpr ⟨_, _, rfl, h.spells, .single ht⟩
  have hwire : c'.out = headerPlaceholder ++ runs.flatMap runBytes ++ 0x00#8 :: runBodies (ts ++ [t]) := by
    rw [hout, h.out, runBodies_append]
    simp [runBodies]
  have hsynced : c'.dict = some (Dict.new.pushAll (c'.inp.take c'.ip)) := by rw [hdict, hinp, hip]
  have hwithin : c'.ip ≤ c'.inp.length := by rwa [hinp, hip]
  unfold Comp.afterToken
  split
  next hnext =>
    exact ⟨runs, ts ++ [t], ⟨h.full, by simpa using hnext, hspells, by simp, hctrl, hpos.trans h.ctrlPos, hwire, hwithin⟩, hsynced⟩
  next hlast =>
    have hroom := h.room
    have hrun : (ts ++ [t]).length = runSlots := by
      rw [List.length_append, List.length_singleton]
      omega
    refine ⟨runs ++ [ts ++ [t]], ⟨?_, by simpa using hspells, ?_, hwithin⟩, hsynced⟩
    · intro us hus
      rcases List.mem_append.mp hus with hus | hus
      · exact h.full us hus
      · rw [List.mem_singleton.mp hus, hrun]
    · simp [hwire, runBytes]

/-- A literal writes the one byte that its search pushed (R138, R141). -/
theorem Comp.InRun.literal {c : Comp} {runs : List (List StreamToken)} {ts : List StreamToken} {n : Nat} {off : Off12} {b : Byte}
    (h : c.InRun runs ts) (hf : c.Found n off) (hb : c.inp[c.ip]? = some b) (hshort : n < minMatch) :
    ((c.emitLiteral b).afterToken (runControl ts) ts.length (headerPlaceholder ++ runs.flatMap runBytes).length).Spelling := by
  obtain ⟨hin, hbyte⟩ := List.getElem?_eq_some_iff.mp hb
  have hdict := hf.dict
  rw [max_eq_left (Nat.le_of_lt_succ hshort)] at hdict
  have ht : (StreamToken.literal b).Writes (Dict.new.pushAll (c.inp.take c.ip)) ((c.inp.drop c.ip).take 1) := by
    rw [List.drop_eq_getElem_cons hin, hbyte]
    rfl
  have hctrl : runControl (ts ++ [.literal b]) = runControl ts := runControl_append ts (.literal b)
  rw [← hctrl]
  exact h.emit ht rfl rfl hin hdict rfl (hctrl ▸ h.ctrl) rfl

/-- A reference writes the match that its search pushed (R142). -/
theorem Comp.InRun.reference {c : Comp} {runs : List (List StreamToken)} {ts : List StreamToken} {n : Nat} {off : Off12}
    (h : c.InRun runs ts) (hf : c.Found n off) (hlong : minMatch ≤ n) :
    ((c.emitReference (runControl ts) ts.length n off).afterToken (setCtrlBit (runControl ts) ts.length) ts.length
      (headerPlaceholder ++ runs.flatMap runBytes).length).Spelling := by
  have hmax : max 1 n = n := max_eq_right (Nat.le_of_lt hlong)
  have hdict := hf.dict
  have hin := hf.inside
  rw [hmax] at hdict hin
  have hctrl : runControl (ts ++ [.reference off (lengthCode n)]) = setCtrlBit (runControl ts) ts.length :=
    runControl_append ts (.reference off (lengthCode n))
  rw [← hctrl]
  exact h.emit (hf.writes hlong) rfl rfl hin hdict rfl (congrArg some hctrl.symm) rfl

/-- The upcoming bytes of a search: `IN[IP .. IP + CAP)` (R134). -/
def Comp.upcoming (c : Comp) : Buffer := (c.inp.drop c.ip).take (min maxMatch (c.inp.length - c.ip))

theorem Comp.upcoming_length (c : Comp) : c.upcoming.length = min maxMatch (c.inp.length - c.ip) := by
  rw [Comp.upcoming, List.length_take, List.length_drop, min_assoc, min_self]

theorem Comp.take_upcoming (c : Comp) {n : Nat} (h : n ≤ c.upcoming.length) : c.upcoming.take n = (c.inp.drop c.ip).take n := by
  rw [Comp.upcoming_length] at h
  rw [Comp.upcoming, List.take_take, min_eq_left h]

/-- What `SEARCH` leaves in the registers that `EMIT` reads, and in the dictionary (R134 to R139). -/
theorem Comp.search_registers (c : Comp) (d : Dict) :
    (c.search d).best = some (searchAll d c.upcoming).best ∧ (c.search d).bestOff = some (searchAll d c.upcoming).bestOff ∧
      (c.search d).dict = some (d.pushAll (c.upcoming.take (max 1 (searchAll d c.upcoming).best))) := by
  rw [← endSearch_pushed (searchAll_pushed d c.upcoming), ← endSearch_best c.upcoming, ← endSearch_bestOff c.upcoming]
  exact ⟨rfl, rfl, rfl⟩

/-- A search within the bound finds what its token writes (R134 to R139, R238). -/
theorem Comp.search_found {c : Comp} {d : Dict} (hbound : c.inp.length ≤ 3874) (hleft : c.ip < c.inp.length)
    (hd : d = Dict.new.pushAll (c.inp.take c.ip)) : ∃ n off, ({ c.search d with phase := .emit } : Comp).Found n off := by
  have hlen : c.upcoming.length = min 17 (c.inp.length - c.ip) := c.upcoming_length
  have htaken : (c.inp.take c.ip).length = c.ip := List.length_take_of_le hleft.le
  have hcounters := Dict.new_pushAll_cursor (bs := c.inp.take c.ip) (by rw [htaken, seedLen, dictSize]; omega)
  rw [← hd, htaken, seedLen] at hcounters
  obtain ⟨hcursor, hfill⟩ := hcounters
  obtain ⟨hbest, hbestOff, hdict⟩ := c.search_registers d
  obtain ⟨hmax, -⟩ := searchAll_pushed d c.upcoming
  refine ⟨_, _, ⟨hbest, hbestOff, ?inside, ?dict, fun hlong => ?writes⟩⟩
  case inside =>
    simp only [Comp.search]
    omega
  case dict =>
    rw [c.take_upcoming (by omega), hd, ← Dict.pushAll_append, ← List.take_add, ← hd] at hdict
    exact hdict
  case writes =>
    have hwrites := searchAll_writes (upcoming := c.upcoming) (hfill.trans hcursor.symm) (by rw [dictSize]; omega)
      (by rw [maxMatch]; omega) hlong
    rw [c.take_upcoming hmax] at hwrites
    exact hd ▸ hwrites

/-- The EOS closes a payload that spells the input (R140). -/
theorem Comp.InRun.eos {c : Comp} {runs : List (List StreamToken)} {ts : List StreamToken} (h : c.InRun runs ts)
    (hend : c.ip = c.inp.length) :
    (c.afterEos (Dict.new.pushAll c.inp) (runControl ts) ts.length (headerPlaceholder ++ runs.flatMap runBytes).length).Spelling := by
  have hspells := h.spells
  rw [hend, List.take_length] at hspells
  refine ⟨runs, ts, h.full, h.room, hspells, ?_⟩
  simp only [Comp.afterEos, h.out]
  simp [runBytes, runControl_append, StreamToken.isReference, runBodies, StreamToken.body, headerPlaceholder]

/-- What `EMIT` reads in a run in progress. -/
theorem Comp.InRun.registers {c : Comp} {runs : List (List StreamToken)} {ts : List StreamToken} {d : Dict} {ctrl : Byte} {slot pos : Nat}
    (h : c.InRun runs ts) (he : c.Emits d ctrl slot pos) :
    ctrl = runControl ts ∧ slot = ts.length ∧ pos = (headerPlaceholder ++ runs.flatMap runBytes).length :=
  ⟨Option.some.inj (he.ctrl.symm.trans h.ctrl), Option.some.inj (he.slot.symm.trans h.slot),
    Option.some.inj (he.ctrlPos.symm.trans h.ctrlPos)⟩

theorem Comp.Spelling.of_emits {c : Comp} {d : Dict} {ctrl : Byte} {slot pos : Nat} (hc : c.Spelling) (he : c.Emits d ctrl slot pos) :
    ∃ runs ts, c.InRun runs ts ∧ c.Searched := by
  simpa only [Comp.Spelling, he.phase] using hc

/-- A step of the token loop keeps what `OUT` spells. -/
theorem Comp.StreamStep.spelling {c c' : Comp} (h : c.StreamStep c') (hbound : c.inp.length ≤ 3874) (hc : c.Spelling) :
    c'.Spelling := by
  cases h with
  | beginRun hphase =>
    simp only [Comp.Spelling, hphase] at hc
    obtain ⟨runs, hw, hsynced⟩ := hc
    exact ⟨runs, [], ⟨hw.full, by decide, by simpa using hw.spells, rfl, rfl, congrArg (some ·.length) hw.out,
      congrArg (· ++ [0x00#8]) hw.out, hw.within⟩, hsynced⟩
  | noSearch hphase hdict hend =>
    simp only [Comp.Spelling, hphase] at hc
    obtain ⟨runs, ts, hrun, hsynced⟩ := hc
    exact ⟨runs, ts, { hrun with }, .atEnd hend hsynced⟩
  | search hphase hdict hleft =>
    simp only [Comp.Spelling, hphase] at hc
    obtain ⟨runs, ts, hrun, hsynced⟩ := hc
    obtain ⟨n, off, hfound⟩ := Comp.search_found hbound (Nat.lt_of_le_of_ne hrun.within hleft)
      (Option.some.inj (hdict.symm.trans hsynced))
    exact ⟨runs, ts, { hrun with }, .token hfound⟩
  | literal he hb hbest hoff hshort =>
    obtain ⟨runs, ts, hrun, hfound⟩ := hc.of_emits he
    obtain ⟨rfl, rfl, rfl⟩ := hrun.registers he
    have hleft := (List.getElem?_eq_some_iff.mp hb).1.ne
    exact hrun.literal (hfound.found hleft hbest hoff) hb hshort
  | reference he hleft hbest hoff hlong =>
    obtain ⟨runs, ts, hrun, hfound⟩ := hc.of_emits he
    obtain ⟨rfl, rfl, rfl⟩ := hrun.registers he
    exact hrun.reference (hfound.found hleft hbest hoff) hlong
  | eos he hend =>
    obtain ⟨runs, ts, hrun, hfound⟩ := hc.of_emits he
    obtain ⟨rfl, rfl, rfl⟩ := hrun.registers he
    have hsynced := hfound.synced hend
    rw [Comp.Synced, hend, List.take_length, he.dict] at hsynced
    cases hsynced
    exact hrun.eos hend

/-- The container that `COMPRESS` makes of an input within the bound holds a payload that spells it (R139, R238). -/
theorem exists_payloadSpells {cfg : Config} {data out : Buffer} (hbound : data.length ≤ 3874)
    (h : compressResponse cfg tagCompressed data = .ok (.ok (.bytes out))) :
    ∃ payload runs last, out = compressedContainer data payload ∧ PayloadSpells payload data runs last := by
  obtain ⟨f, hreach, hp, hinp, hmode, hcompact, hspelling⟩ := Comp.streams_to_finalize
    (Inv := fun c => c.inp = data ∧ c.mode = tagCompressed ∧ c.Compact ∧ c.Spelling)
    (fun {c c'} hstep ⟨hinp, hmode, hcompact, hspelling⟩ =>
      ⟨hstep.operands.1.trans hinp, hstep.operands.2.trans hmode, hstep.compact hcompact,
        hstep.spelling (hinp ▸ hbound) hspelling⟩)
    (Comp.opened_sound data) (.inl rfl) ⟨rfl, rfl, Comp.opened_compact data, Comp.opened_spelling data⟩
  simp only [Comp.Compact, hp] at hcompact
  simp only [Comp.Spelling, hp, hinp] at hspelling
  obtain ⟨runs, last, hspells⟩ := hspelling
  obtain ⟨n, c', r, hr, hends⟩ := exists_compress_ends cfg tagCompressed data
  obtain ⟨n₁, hends⟩ := hends.of_run (Comp.tick_start_compressed (sizeCheckIn_of_ok (.inl rfl) h))
  obtain ⟨n₂, hends⟩ := Comp.ends_of_streamSteps hends hreach
  rw [h, Except.ok.injEq] at hr
  have hresponse := Comp.response_at_finalize hends hp hmode (Nat.le_of_add_right_le hcompact.1)
  rw [← hr, hinp] at hresponse
  exact ⟨_, runs, last, (payloadResponse_ok hresponse.symm).2, hspells⟩

end Sys2Proof.Machine
end

section
/-! CERTIFICATES. The decompressor, whole commands (44_decompressor.md rules R160, R173 to R177): what `DECOMPRESS` answers, what acceptance
implies, and the round trips. -/

namespace Sys2Proof.Machine

/-- Settles O31: the payload spells the input, and `DECOMPRESS` returns what a payload spells. -/
theorem compressedRoundTrip : Obligations.CompressedRoundTrip := by
  intro data out s hbound hlimit hexec
  obtain ⟨payload, runs, last, rfl, hspells⟩ := exists_payloadSpells hbound (compressResponse_of_exec hexec)
  exact exec_decompress_eq (decompressResponse_of_payloadSpells hspells _ (hbound.trans (by decide)) hlimit)

/-- Settles O32: the all-literal payload spells the sequence, and `DECOMPRESS` returns what a payload spells. -/
theorem literalStreamsDecode : Obligations.LiteralStreamsDecode := by
  intro cs bs s hfield hlimit
  obtain ⟨runs, last, hspells⟩ := literalPayload_spells bs
  exact exec_decompress_eq (decompressResponse_of_payloadSpells hspells cs hfield hlimit)

/-- Settles O33: the response is computed from the parameters and the operand. -/
theorem decompressAlwaysAnswers : Obligations.DecompressAlwaysAnswers := by
  intro cfg data
  obtain ⟨n, d', r, hr, -⟩ := exists_decompress_ends cfg data
  refine ⟨r, fun s hcfg => exec_decompress_eq ?_⟩
  rw [hcfg, hr]

/-- Settles O34: of the responses of a stream the accepting one stands behind its checks. -/
theorem acceptedContainersAreChecked : Obligations.AcceptedContainersAreChecked := by
  intro cs rs crcVal payload out s hexec
  obtain ⟨hlimit, hresponse⟩ := accepted_of_exec hexec
  cases hresponse with
  | accepted hcrc hlen hbound => exact ⟨hcrc.symm, hlen, hlimit, hbound⟩

/-- Settles O35: the flipped payload has another CRC, so of the responses of a stream only the errors are left. -/
theorem payloadBitFlipsAreDetected : Obligations.PayloadBitFlipsAreDetected := by
  intro cs rs crcVal payload out s i j hexec hi hj
  obtain ⟨hlimit, haccepted⟩ := accepted_of_exec hexec
  obtain ⟨r, hr, hflipped⟩ := decompressResponse_stream cs crcVal (payload.modify i (fun b => b ^^^ (1#8 <<< j))) hlimit
  cases hflipped with
  | accepted hcrc' =>
    cases haccepted with
    | accepted hcrc => exact absurd (hcrc'.trans hcrc.symm) (crc_modify_ne 0 hi (xor_bit_ne _ hj))
  | mismatch => exact ⟨_, exec_decompress_eq hr, .inl rfl⟩
  | overflow => exact ⟨_, exec_decompress_eq hr, .inr (.inl rfl)⟩
  | underrun u => exact ⟨_, exec_decompress_eq hr, .inr (.inr ⟨u, rfl⟩)⟩

/-- Settles O29: the header takes the command to DONE, which hands over what stands after it. -/
theorem decompressRawContainer : Obligations.DecompressRawContainer := by
  intro cs rs crcVal payload s
  have hheader : (Dec.start .decompress (container cs rs tagUncompressed crcVal payload)).tick s.cfg =
      .run { (Dec.start .decompress (container cs rs tagUncompressed crcVal payload)).setHeader cs rs tagUncompressed crcVal with
        phase := .done } := by
    rw [Dec.tick_start_container, headerOf_uncompressed]
    exact Dec.headerMELA_decompress rfl cs rs crcVal rfl
  have hresponse := decompressResponse_of_steps (.single hheader) (Dec.tick_done s.cfg rfl rfl)
  rw [Dec.result_uncompressed _ rfl] at hresponse
  exact exec_decompress_eq hresponse

/-- Settles O30: the container of UNCOMPRESSED mode is a header and the input. -/
theorem rawRoundTrip : Obligations.RawRoundTrip := by
  intro data out s hexec
  have hcompress := compressResponse_of_exec hexec
  have hcheck := sizeCheckIn_of_ok (.inr rfl) hcompress
  have hfield : data.length + 12 ≤ maxField := by
    by_contra hbig
    rw [sizeCheckIn_raw_sizeField (Nat.lt_of_not_le hbig)] at hcheck
    cases hcheck
  rw [compressResponse_uncompressed s.cfg hfield, Except.ok.injEq] at hcompress
  split at hcompress
  next => cases hcompress
  next =>
    cases hcompress
    rw [rawContainer_eq]
    exact decompressRawContainer _ _ _ data s

end Sys2Proof.Machine
end

section
/-! CERTIFICATES. The decompressor, element by element (44_decompressor.md rules R162 to R172, R179): what the headers and tokens do to a command
in progress, and the stages after the EOS. -/

namespace Sys2Proof.Machine

/-- Settles O40: the copy's bytes are those it reads, the ring changes where they are pushed, and the step after the copy ends its
slot. -/
theorem referenceCopiesFromTheLiveRing : Obligations.ReferenceCopiesFromTheLiveRing := by
  refine ⟨fun s d ip bit ctrl dict h off code hd ht hslot hoff hin hfits _ => ?copy, fun s tag rest d bit hm hd hp hbit => ?endCopy⟩
  case copy =>
    have hlen : (copied off (matchLength code) dict).length = matchLength code := copied_length ..
    refine ⟨copied off (matchLength code) dict, hlen, copied_copies off _ dict, ?_, fun o ho => Dict.read_pushAll_other ho⟩
    exact State.onDec_run hd (Dec.reference_eq ht code hslot hin hoff hlen (copied_copies off _ dict) (by rwa [hlen]))
  case endCopy =>
    exact (step_of_advance hm).trans (State.advance_dec_run hd (Dec.tick_copy hp hbit))

/-- Settles O41: the byte stands one behind the cursor at the start, and each push puts it there again. -/
theorem distanceOneRepeatsTheByte : Obligations.DistanceOneRepeatsTheByte := by
  intro raw n off dict out hwf hoff hfits _
  have hcopy := copyLoop_fits off 0 dict hfits
  rw [BitVec.add_zero, copied_behind_cursor n hwf hoff] at hcopy
  exact ⟨_, hcopy⟩

/-- Settles O42: each check where it stands, in the element or at the place it is read from, and the same after the first steps of a
command. -/
theorem streamErrorsEndTheCommand : Obligations.StreamErrorsEndTheCommand := by
  refine ⟨fun s d ip bit ctrl dict h hd ht hout => ⟨fun b hslot hin hfull => ?literal, fun off code hslot hoff hin hover => ?reference⟩,
    fun s tag rest d ip hm hd hip => ⟨fun hp hend => ?controlByte, fun bit ctrl dict h ht =>
      ⟨fun hslot hend => ?literalBody, fun hslot hend => ?referenceBody⟩⟩,
    fun cs rs crcVal k b s hlimit => ⟨?noByte, fun hslot => ?noLiteral, fun hslot => ⟨?noReference, ?halfReference⟩⟩⟩
  case literal => exact State.onDec_done hd (Dec.literal_overflow ht b hslot hin hfull)
  case reference => exact State.onDec_done hd (Dec.reference_overflow ht code hslot hin hoff hout hover)
  case controlByte => exact (step_of_advance hm).trans (State.advance_dec_done hd (Dec.tick_control_underrun hp hip hend))
  case literalBody => exact (step_of_advance hm).trans (State.advance_dec_done hd (Dec.tick_literal_underrun ht hslot hend))
  case referenceBody => exact (step_of_advance hm).trans (State.advance_dec_done hd (Dec.tick_reference_underrun ht hslot hend))
  case noByte =>
    have hp := Dec.opened_at cs rs crcVal []
    exact exec_decompress_eq (decompressResponse_of_stream hlimit .refl (Dec.tick_control_underrun hp.phase hp.ip hp.length_le))
  case noLiteral =>
    obtain ⟨d, hk, hs⟩ := (Dec.opened_at cs rs crcVal [k]).tick_control s.cfg
    exact exec_decompress_eq (decompressResponse_of_stream hlimit (.single hk)
      (Dec.tick_literal_underrun (hs.atToken (by decide)) hslot hs.place.length_le))
  case noReference =>
    obtain ⟨d, hk, hs⟩ := (Dec.opened_at cs rs crcVal [k]).tick_control s.cfg
    exact exec_decompress_eq (decompressResponse_of_stream hlimit (.single hk)
      (hs.tick_reference_underrun s.cfg (by decide) hslot Nat.two_pos))
  case halfReference =>
    obtain ⟨d, hk, hs⟩ := (Dec.opened_at cs rs crcVal [k, b]).tick_control s.cfg
    exact exec_decompress_eq (decompressResponse_of_stream hlimit (.single hk)
      (hs.tick_reference_underrun s.cfg (by decide) hslot Nat.one_lt_two))

/-- Settles O6: the move is an advance, and an advance of a command that reads an element is exec of it. -/
theorem stepRunsTheDecodedElement : Obligations.StepRunsTheDecodedElement := by
  intro s tag rest c i bs hm hn hd
  rw [step_of_advance hm]
  simp only [State.advance, hn, hd]

/-- Settles O36: a header within the limit sets up the stream, and the command goes on with the registers it leaves. -/
theorem compressedHeaderSetsUpTheStream : Obligations.CompressedHeaderSetsUpTheStream := by
  intro s d cs rs crcVal hd hp hc hlimit
  exact State.onDec_run hd ((Dec.headerLZFu_decompress hp cs rs crcVal s.cfg hc).trans (Dec.setUp_fits _ hlimit))

/-- Settles O38: a control byte in its place, and the command goes on with the registers it leaves. -/
theorem controlByteBeginsARun : Obligations.ControlByteBeginsARun :=
  fun _ _ _ k hd hp hip hin => State.onDec_run hd (Dec.control_eq k hp hip hin)

/-- Settles O39: a literal with room in OUT, and the two reads after a push. -/
theorem literalWritesAndPushesItsByte : Obligations.LiteralWritesAndPushesItsByte :=
  fun _ _ _ _ _ dict _ b hd ht hslot hin hroom hwf =>
    ⟨State.onDec_run hd (Dec.literal_eq ht b hslot hin hroom.ne), Dict.read_push_same hwf b,
      fun _ ho => Dict.read_push_other dict b ho⟩

/-- Settles O44: a reference body at the write cursor, whatever its code. -/
theorem endOfStreamEndsTheTokenLoop : Obligations.EndOfStreamEndsTheTokenLoop :=
  fun _ _ _ _ _ _ _ code hd ht hslot hin => State.onDec_run hd (Dec.endOfStream_eq ht code hslot hin rfl)

/-- Settles O45: the step of each stage, by its phase, and in CHECK by the two comparisons in their order. -/
theorem checksAfterTheEndOfStream : Obligations.ChecksAfterTheEndOfStream := by
  intro s tag rest d h hm hd hh
  rw [step_of_advance hm]
  refine ⟨fun ip hp hip hin => ?trail, fun hp hcrc => ?mismatch, fun hp hcrc hlen => ?short, fun hp hcrc hlen => ?passed,
    fun hp => ?done⟩
  case trail =>
    rw [State.advance_dec_run (d := d) hd (Dec.tick_trail hp hip), Dec.consume, List.length_drop, Nat.add_sub_cancel' hin]
  case mismatch => exact State.advance_dec_done hd (Dec.tick_check_mismatch hp hh hcrc)
  case short => exact State.advance_dec_done hd (Dec.tick_check_short hp hh hcrc hlen)
  case passed => exact State.advance_dec_run hd (Dec.tick_check_passed hp hh hcrc hlen)
  case done => exact State.advance_dec_done hd (Dec.tick_done s.cfg hp hh)

end Sys2Proof.Machine
end

section
/-! SUPPORT. The decoder on RTF text (30_encoding.md rules R86, R87, 45_lexer.md rules R185 to R190): the elements and the errors that stand
at the head of the text. -/

namespace Sys2Proof

/-! ### Maximal runs of a class (R87) -/

section
variable {p : Byte → Bool} {bs rest : Buffer}

theorem startsWithout_append (hbs : ∀ c ∈ bs, p c = false) (hrest : bs = [] → startsWithout p rest = true) :
    startsWithout p (bs ++ rest) = true := by
  cases bs with
  | nil => exact hrest rfl
  | cons c bs => simp [startsWithout, hbs]

theorem takeWhile_run (hbs : ∀ c ∈ bs, p c = true) (hrest : startsWithout p rest = true) : (bs ++ rest).takeWhile p = bs := by
  rw [List.takeWhile_append_of_pos hbs]
  cases rest with
  | nil => simp
  | cons c rest =>
    have hc : p c = false := by simpa [startsWithout] using hrest
    simp [hc]

theorem dropWhile_run (hbs : ∀ c ∈ bs, p c = true) (hrest : startsWithout p rest = true) : (bs ++ rest).dropWhile p = rest := by
  rw [List.dropWhile_append_of_pos hbs]
  cases rest with
  | nil => rfl
  | cons c rest =>
    have hc : p c = false := by simpa [startsWithout] using hrest
    simp [hc]

end

/-! ### Byte classes (R86) -/

theorem isLetter_of_isDigit {c : Byte} (h : isDigit c = true) : isLetter c = false := by
  simp only [isDigit, Bool.and_eq_true, decide_eq_true_eq] at h
  simp only [isLetter, Bool.or_eq_false_iff, Bool.and_eq_false_iff, decide_eq_false_iff_not]
  omega

theorem ne_minus_of_isDigit {c : Byte} (h : isDigit c = true) : (c == byteMinus) = false := by
  refine beq_eq_false_iff_ne.mpr ?_
  rintro rfl
  exact absurd h (by decide)

theorem isOrdinary_eq_true {c : Byte} :
    isOrdinary c = true ↔ c ≠ byteOpen ∧ c ≠ byteClose ∧ c ≠ byteBackslash ∧ isLineBreak c = false := by
  simp [isOrdinary, and_assoc]

/-! ### Text, braces and line breaks (R183, R191, R194) -/

theorem decodeRtf_text {text rest : Buffer} (hne : text ≠ []) (htext : ∀ c ∈ text, isOrdinary c = true)
    (hrest : startsWithout isOrdinary rest = true) : decodeRtf (text ++ rest) = .ok (.rtfText text, rest) := by
  obtain ⟨c, text, rfl⟩ := List.exists_cons_of_ne_nil hne
  obtain ⟨hc, htext⟩ := List.forall_mem_cons.mp htext
  obtain ⟨hopen, hclose, hback, hbreak⟩ := isOrdinary_eq_true.mp hc
  simp only [List.cons_append, decodeRtf, hopen, hclose, hback, hbreak, if_false, Bool.false_eq_true, takeWhile_run htext hrest,
    dropWhile_run htext hrest]

theorem decodeControlWord_ne_text {bs rest text : Buffer} : decodeControlWord bs ≠ .ok (.rtfText text, rest) := by
  unfold decodeControlWord
  dsimp only
  repeat' split
  all_goals simp

/-- What stands where no ordinary byte does is no text: a delimiter, the end of the buffer or an error. -/
theorem decodeRtf_ne_text {bs rest text : Buffer} (h : startsWithout isOrdinary bs = true) :
    decodeRtf bs ≠ .ok (.rtfText text, rest) := by
  cases bs with
  | nil => simp [decodeRtf]
  | cons c bs =>
    have hc : isOrdinary c = false := by simpa [startsWithout] using h
    simp only [decodeRtf]
    split
    · simp
    split
    · simp
    split
    · cases bs with
      | nil => simp [decodeControlToken]
      | cons d bs =>
        simp only [decodeControlToken]
        split
        · exact decodeControlWord_ne_text
        · simp
    split
    · simp
    · rename_i hopen hclose hback hbreak
      exact absurd (isOrdinary_eq_true.mpr ⟨hopen, hclose, hback, Bool.eq_false_iff.mpr hbreak⟩) (Bool.eq_false_iff.mp hc)

theorem decodeRtf_open (rest : Buffer) : decodeRtf (byteOpen :: rest) = .ok (.rtfOpen, rest) := rfl

theorem decodeRtf_close (rest : Buffer) : decodeRtf (byteClose :: rest) = .ok (.rtfClose, rest) := rfl

theorem decodeRtf_lineBreak {c : Byte} (h : c = byteCR ∨ c = byteLF) (rest : Buffer) :
    decodeRtf (c :: rest) = .ok (.rtfLineBreak c, rest) := by
  rcases h with rfl | rfl <;> rfl

/-! ### Control tokens (R185 to R190) -/

theorem decodeRtf_backslash (rest : Buffer) : decodeRtf (byteBackslash :: rest) = decodeControlToken rest := rfl

theorem decodeRtf_controlSymbol {c : Byte} (h : isLetter c = false) (rest : Buffer) :
    decodeRtf (byteBackslash :: c :: rest) = .ok (.rtfControlSymbol c, rest) := by
  simp [decodeRtf_backslash, decodeControlToken, h]

theorem decodeRtf_keyword {kw : Buffer} (hne : kw ≠ []) (hkw : ∀ c ∈ kw, isLetter c = true) (rest : Buffer) :
    decodeRtf (byteBackslash :: (kw ++ rest)) = decodeControlWord (kw ++ rest) := by
  obtain ⟨c, kw, rfl⟩ := List.exists_cons_of_ne_nil hne
  simp [decodeRtf_backslash, decodeControlToken, hkw]

theorem decodeControlWord_tooLong {kw : Buffer} (hkw : ∀ c ∈ kw, isLetter c = true) (hlen : kwMax < kw.length) (rest : Buffer) :
    decodeControlWord (kw ++ rest) = .error (.lexical .keywordTooLong (1 + kwMax)) := by
  have hlong : kwMax < ((kw ++ rest).takeWhile isLetter).length := by
    rw [List.takeWhile_append_of_pos hkw, List.length_append]
    omega
  simp only [decodeControlWord, hlong, if_true]

theorem decodeControlWord_underrun {kw : Buffer} (hkw : ∀ c ∈ kw, isLetter c = true) (hlen : kw.length ≤ kwMax) :
    decodeControlWord kw = .error (.lexical .bufferUnderrun (1 + kw.length)) := by
  have htake : kw.takeWhile isLetter = kw := List.takeWhile_eq_self_iff.mpr hkw
  have hdrop : kw.dropWhile isLetter = [] := List.dropWhile_eq_nil_iff.mpr hkw
  simp only [decodeControlWord, htake, hdrop, Nat.not_lt.mpr hlen, if_false, List.isEmpty_nil, if_true]

section
variable {kw after afterSign : Buffer} {neg : Bool}

/-- A keyword that ends inside the buffer and has too many digits after it (R188). -/
theorem decodeControlWord_parameterTooLong (hkw : ∀ c ∈ kw, isLetter c = true) (hlen : kw.length ≤ kwMax)
    (hafter : startsWithout isLetter after = true) (hne : after ≠ []) (hsign : takeSign after = (neg, afterSign))
    (hdigits : paramMaxDigits < (afterSign.takeWhile isDigit).length) :
    decodeControlWord (kw ++ after) =
      .error (.lexical .parameterTooLong (1 + kw.length + neg.toNat + paramMaxDigits)) := by
  simp only [decodeControlWord, takeWhile_run hkw hafter, dropWhile_run hkw hafter, Nat.not_lt.mpr hlen, if_false,
    List.isEmpty_eq_false_iff.mpr hne, Bool.false_eq_true, hsign, hdigits, if_true]

/-- A keyword that ends inside the buffer, with the sign, the digits and the space after it (R186 to R190). -/
theorem decodeControlWord_ok {digits tail rest : Buffer} {space : Bool} (hkw : ∀ c ∈ kw, isLetter c = true)
    (hlen : kw.length ≤ kwMax) (hafter : startsWithout isLetter after = true) (hne : after ≠ [])
    (hsign : takeSign after = (neg, digits ++ tail)) (hdigits : ∀ c ∈ digits, isDigit c = true)
    (hcount : digits.length ≤ paramMaxDigits) (htail : startsWithout isDigit tail = true)
    (hspace : takeSpace tail = (space, rest)) :
    decodeControlWord (kw ++ after) = .ok (.rtfControlWord kw neg digits space, rest) := by
  simp only [decodeControlWord, takeWhile_run hkw hafter, dropWhile_run hkw hafter, Nat.not_lt.mpr hlen, if_false,
    List.isEmpty_eq_false_iff.mpr hne, Bool.false_eq_true, hsign, takeWhile_run hdigits htail, dropWhile_run hdigits htail,
    Nat.not_lt.mpr hcount, hspace]

end

/-! ### A control word from its encoding (R87) -/

/-- A byte that may stand there or not: the sign, or the delimiter space. -/
def optionalByte (present : Bool) (c : Byte) : Buffer := if present then [c] else []

@[simp] theorem optionalByte_eq_nil {present : Bool} {c : Byte} : optionalByte present c = [] ↔ present = false := by
  cases present <;> simp [optionalByte]

theorem startsWithout_optionalByte {p : Byte → Bool} {present : Bool} {c : Byte} {rest : Buffer} (hp : p c = false)
    (hrest : present = false → startsWithout p rest = true) : startsWithout p (optionalByte present c ++ rest) = true := by
  cases present with
  | true => simp [optionalByte, startsWithout, hp]
  | false => exact hrest rfl

theorem takeSign_optionalByte {neg : Bool} {bs : Buffer} (h : neg = false → startsWithout (· == byteMinus) bs = true) :
    takeSign (optionalByte neg byteMinus ++ bs) = (neg, bs) := by
  cases neg with
  | true => rfl
  | false =>
    cases bs with
    | nil => rfl
    | cons c bs =>
      have hc : c ≠ byteMinus := by simpa [startsWithout] using h rfl
      simp [optionalByte, takeSign, hc]

theorem takeSpace_optionalByte {space : Bool} {bs : Buffer} (h : space = false → startsWithout (· == byteSpace) bs = true) :
    takeSpace (optionalByte space byteSpace ++ bs) = (space, bs) := by
  cases space with
  | true => rfl
  | false =>
    cases bs with
    | nil => rfl
    | cons c bs =>
      have hc : c ≠ byteSpace := by simpa [startsWithout] using h rfl
      simp [optionalByte, takeSpace, hc]

theorem encode_controlWord_bytes (kw : Buffer) (neg : Bool) (ds : Buffer) (space : Bool) (rest : Buffer) :
    (encode (.rtfControlWord kw neg ds space)).bytes ++ rest =
      byteBackslash :: (kw ++ (optionalByte neg byteMinus ++ (ds ++ (optionalByte space byteSpace ++ rest)))) := by
  simp [encode, Code.bytes, optionalByte]

theorem keywordOk_iff {kw : Buffer} : keywordOk kw = true ↔ kw ≠ [] ∧ kw.length ≤ kwMax ∧ ∀ c ∈ kw, isLetter c = true := by
  simp [keywordOk, Nat.one_le_iff_ne_zero, and_assoc]

theorem digitsOk_iff {ds : Buffer} : digitsOk ds = true ↔ ds.length ≤ paramMaxDigits ∧ ∀ c ∈ ds, isDigit c = true := by
  simp [digitsOk]

/-- What ends a control word with no delimiter space (R87): no space and no digit; and where no sign and no digit precede it, a byte that is
neither letter nor sign. -/
structure EndsControlWord (neg : Bool) (ds rest : Buffer) : Prop where
  noSpace : startsWithout (· == byteSpace) rest = true
  noDigit : startsWithout isDigit rest = true
  noLetter : ds = [] → neg = false → startsWithout isLetter rest = true
  noSign : ds = [] → neg = false → startsWithout (· == byteMinus) rest = true
  nonempty : ds = [] → neg = false → rest ≠ []

theorem follows_ends {kw ds rest : Buffer} {neg : Bool} (h : follows (.rtfControlWord kw neg ds false) rest = true) :
    EndsControlWord neg ds rest := by
  simp only [follows, Bool.false_eq_true, if_false, Bool.and_eq_true] at h
  obtain ⟨⟨hspace, hdigit⟩, hbare⟩ := h
  have hkeyword (hds : ds = []) (hneg : neg = false) :
      rest ≠ [] ∧ startsWithout isLetter rest = true ∧ startsWithout (· == byteMinus) rest = true := by
    subst hds hneg
    simpa [and_assoc] using hbare
  exact ⟨hspace, hdigit, fun hds hneg => (hkeyword hds hneg).2.1, fun hds hneg => (hkeyword hds hneg).2.2,
    fun hds hneg => (hkeyword hds hneg).1⟩

/-- The decoder gives back a well-formed control word from its encoding (R87). -/
theorem decodeRtf_controlWord {kw ds rest : Buffer} {neg space : Bool} (hwf : (Instr.rtfControlWord kw neg ds space).wf = true)
    (hfollows : follows (.rtfControlWord kw neg ds space) rest = true) :
    decodeRtf ((encode (.rtfControlWord kw neg ds space)).bytes ++ rest) = .ok (.rtfControlWord kw neg ds space, rest) := by
  obtain ⟨hkwOk, hdsOk⟩ : keywordOk kw = true ∧ digitsOk ds = true := by simpa [Instr.wf] using hwf
  obtain ⟨hne, hlen, hkw⟩ := keywordOk_iff.mp hkwOk
  obtain ⟨hcount, hds⟩ := digitsOk_iff.mp hdsOk
  have hends : space = false → EndsControlWord neg ds rest := fun hspace => follows_ends (hspace ▸ hfollows)
  rw [encode_controlWord_bytes, decodeRtf_keyword hne hkw]
  refine decodeControlWord_ok (tail := optionalByte space byteSpace ++ rest) hkw hlen ?noLetter ?inside
    (takeSign_optionalByte ?noSign) hds hcount ?noDigit (takeSpace_optionalByte fun hspace => (hends hspace).noSpace)
  case noLetter =>
    exact startsWithout_optionalByte (by decide) fun hneg =>
      startsWithout_append (fun c hc => isLetter_of_isDigit (hds c hc)) fun hnil =>
        startsWithout_optionalByte (by decide) fun hspace => (hends hspace).noLetter hnil hneg
  case noSign =>
    exact fun hneg => startsWithout_append (fun c hc => ne_minus_of_isDigit (hds c hc)) fun hnil =>
      startsWithout_optionalByte (by decide) fun hspace => (hends hspace).noSign hnil hneg
  case noDigit => exact startsWithout_optionalByte (by decide) fun hspace => (hends hspace).noDigit
  case inside =>
    intro hnil
    obtain ⟨hneg, hnoDigits, hspace, hrest⟩ : neg = false ∧ ds = [] ∧ space = false ∧ rest = [] := by simpa using hnil
    exact (hends hspace).nonempty hnoDigits hneg hrest

/-! ### Errors in a control token (R185 to R188) -/

/-- A buffer that ends after a backslash or within up to 32 letters (R185, R186). -/
theorem decodeRtf_keyword_underrun {kw : Buffer} (hkw : ∀ c ∈ kw, isLetter c = true) (hlen : kw.length ≤ kwMax) :
    decodeRtf (byteBackslash :: kw) = .error (.lexical .bufferUnderrun (1 + kw.length)) := by
  by_cases hne : kw = []
  · subst hne
    rfl
  · have hd := decodeRtf_keyword hne hkw []
    rw [List.append_nil] at hd
    rw [hd, decodeControlWord_underrun hkw hlen]

/-- A keyword with an optional sign and more than 10 digits (R188). -/
theorem decodeRtf_parameterTooLong {kw ds : Buffer} (neg : Bool) (rest : Buffer) (hne : kw ≠ [])
    (hkw : ∀ c ∈ kw, isLetter c = true) (hlen : kw.length ≤ kwMax) (hds : ∀ c ∈ ds, isDigit c = true)
    (hcount : paramMaxDigits < ds.length) :
    decodeRtf (byteBackslash :: (kw ++ (optionalByte neg byteMinus ++ (ds ++ rest)))) =
      .error (.lexical .parameterTooLong (1 + kw.length + neg.toNat + paramMaxDigits)) := by
  have hdsNe : ds ≠ [] := List.ne_nil_of_length_pos (Nat.zero_lt_of_lt hcount)
  rw [decodeRtf_keyword hne hkw]
  refine decodeControlWord_parameterTooLong hkw hlen ?noLetter (by simp [hdsNe]) (takeSign_optionalByte ?noSign) ?tooMany
  case noLetter =>
    exact startsWithout_optionalByte (by decide) fun _ =>
      startsWithout_append (fun c hc => isLetter_of_isDigit (hds c hc)) (absurd · hdsNe)
  case noSign => exact fun _ => startsWithout_append (fun c hc => ne_minus_of_isDigit (hds c hc)) (absurd · hdsNe)
  case tooMany =>
    rw [List.takeWhile_append_of_pos hds, List.length_append]
    omega

/-! ### Parameters (R188, R189) -/

theorem paramConvert_within (cfg : Config) {v : Int} (hlow : -(2 ^ 31 - 1) ≤ v) (hhigh : v ≤ 2 ^ 31 - 1) : paramConvert cfg v = v :=
  if_pos ⟨hlow, hhigh⟩

theorem paramConvert_standard (v : Int) : paramConvert Config.standard v = v := ite_self v

theorem decimalValue_append (ds : Buffer) (b : Byte) : decimalValue (ds ++ [b]) = decimalValue ds * 10 + (b.toNat - 0x30) := by
  simp [decimalValue, List.foldl_append]

theorem paramValue_eq (cfg : Config) (neg : Bool) (ds : Buffer) :
    paramValue cfg neg ds =
      if ds = [] then none else some (paramConvert cfg (if neg then -(decimalValue ds : Int) else (decimalValue ds : Int))) := by
  cases ds <;> rfl

end Sys2Proof
end

section
/-! SUPPORT. The lexer's elements where they stand (45_lexer.md rules R182 to R198), and a whole `LEX_NEXT` as the steps of its scan: what
each step does, and that the steps up to a response are the command's. -/

namespace Sys2Proof.Machine

/-! ### What each RTF element does (R183 to R194) -/

section
variable {l : Lexer} {r : LexRun} (hrun : l.run = some r) (hresult : r.result = none) (hphase : r.lphase = .scan)
include hrun hresult hphase

theorem Lexer.delimiter_flush (n : Nat) (effect : LexRun → Lexer) (h : r.tstart < l.cur) :
    l.delimiter n effect = .run (l.flush r) := by
  simp [Lexer.delimiter, hrun, hresult, hphase, h]

theorem Lexer.delimiter_consume {n : Nat} (effect : LexRun → Lexer) (h : r.tstart = l.cur) (hn : l.cur + n ≤ l.buf.length) :
    l.delimiter n effect = .run (effect r) := by
  simp [Lexer.delimiter, hrun, hresult, hphase, h, Nat.not_lt.mpr hn]

theorem Lexer.group_consume (isOpen : Bool) (h : r.tstart = l.cur) (hn : l.cur + 1 ≤ l.buf.length) :
    l.group isOpen = .run ({ l with cur := l.cur + 1 }.yield r (recordGroup isOpen)) :=
  Lexer.delimiter_consume hrun hresult hphase _ h hn

theorem Lexer.lineBreak_consume (h : r.tstart = l.cur) (hn : l.cur + 1 ≤ l.buf.length) :
    l.lineBreak = .run { l with cur := l.cur + 1, run := some { r with tstart := l.cur + 1 } } :=
  Lexer.delimiter_consume hrun hresult hphase _ h hn

theorem Lexer.controlSymbol_consume (c : Byte) (h : r.tstart = l.cur) (hn : l.cur + 2 ≤ l.buf.length) :
    l.controlSymbol c = .run ({ l with cur := l.cur + 2 }.yield { r with lphase := .ctlFirst } (recordControlSymbol c)) :=
  Lexer.delimiter_consume hrun hresult hphase _ h hn

theorem Lexer.controlWord_consume (cfg : Config) {kw ds : Buffer} {neg space : Bool} (h : r.tstart = l.cur)
    (hn : l.cur + (1 + kw.length + neg.toNat + ds.length + space.toNat) ≤ l.buf.length) :
    l.controlWord cfg kw neg ds space =
      .run ({ l with cur := l.cur + (1 + kw.length + neg.toNat + ds.length + space.toNat) }.yield
        { r with kw := some kw, neg := some neg, pval := some (decimalValue ds), pdig := some ds.length, lphase := .space }
        (recordControlWord kw (paramValue cfg neg ds))) :=
  Lexer.delimiter_consume hrun hresult hphase _ h hn

theorem Lexer.text_consume {bs : Buffer} (h : l.cur + bs.length ≤ l.buf.length) :
    l.text bs = .run { l with cur := l.cur + bs.length } := by
  simp [Lexer.text, hrun, hresult, hphase, Nat.not_lt.mpr h]

/-- Every RTF element but text flushes pending text first (R183, R184, R191). -/
theorem Lexer.apply_flush {i : Instr} (cfg : Config) (hplace : i.place = .rtf) (htext : ∀ bs, i ≠ .rtfText bs)
    (h : r.tstart < l.cur) : l.apply cfg i = .run (l.flush r) := by
  cases i
  case rtfOpen | rtfClose | rtfLineBreak | rtfControlSymbol | rtfControlWord =>
    exact Lexer.delimiter_flush hrun hresult hphase _ _ h
  case rtfText bs => exact absurd rfl (htext bs)
  all_goals cases hplace

end

theorem State.onScan_run {s : State} {id : Nat} {l l' : Lexer} {f : Lexer → Tick Lexer}
    (hfind : findRun s.lexers s.focus = some (id, l)) (hf : f l = .run l') : s.onScan f = .next (s.putLexer id l') := by
  rw [State.onScan_eq f hfind, hf, State.afterLexer]

/-- An RTF element of the scan in focus is what it does to the lexer's registers. -/
theorem exec_scan_run {s : State} {id : Nat} {l l' : Lexer} {i : Instr} (hplace : i.place = .rtf)
    (hfind : findRun s.lexers s.focus = some (id, l)) (h : l.apply s.cfg i = .run l') : exec i s = .next (s.putLexer id l') :=
  (exec_scan (by rw [hplace]; rfl) s).trans (State.onScan_run hfind h)

/-! ### The record of a token (R88) -/

/-- The record of a token. -/
def Token.record : Token → Record
  | .endOfStream => recordEnd
  | .group isOpen => recordGroup isOpen
  | .controlSymbol symbol => recordControlSymbol symbol
  | .controlWord keyword param => recordControlWord keyword param
  | .text bytes => recordText bytes

theorem Lexer.tick_token (cfg : Config) (l : Lexer) (r : LexRun) {t : Token} (ht : t ≠ .endOfStream) :
    (l.yield r t.record).tick cfg = .done { l with run := none } (.ok (.token t)) := by
  cases t with
  | endOfStream => exact absurd rfl ht
  | group | controlSymbol | controlWord | text => rfl

theorem Lexer.tick_end (cfg : Config) (l : Lexer) (r : LexRun) :
    (l.yield r recordEnd).tick cfg = .done { l with state := .exhausted, run := none } (.ok (.token .endOfStream)) := rfl

/-! ### The steps of a scan (R182) -/

theorem Lexer.beginNext_scanning {l : Lexer} (tag : Nat) (hready : l.state = .ready) (hcur : l.cur ≤ l.buf.length) :
    (l.beginNext tag).Scanning (LexRun.start tag l.cur) :=
  ⟨rfl, rfl, rfl, hready, Nat.le_refl _, hcur⟩

theorem Lexer.Scanning.move {l : Lexer} {r : LexRun} {n : Nat} (h : l.Scanning r) (hn : l.cur + n ≤ l.buf.length) :
    Lexer.Scanning { l with cur := l.cur + n } r :=
  ⟨h.run, h.result, h.lphase, h.state, Nat.le_add_right_of_le h.tstart, hn⟩

section
variable {l : Lexer} {r : LexRun} (h : l.Scanning r) (cfg : Config)
include h

theorem Lexer.Scanning.tick_read {i : Instr} {bs rest : Buffer} (hbuf : l.buf.drop l.cur = bs) (hd : decodeRtf bs = .ok (i, rest)) :
    l.tick cfg = l.apply cfg i := by
  simp only [Lexer.tick, Lexer.next, h.run, h.result, Nat.not_lt.mpr h.cur, if_false, decode, hbuf, hd]

theorem Lexer.Scanning.tick_rejected {e : Reject} {bs : Buffer} (hbuf : l.buf.drop l.cur = bs) (hd : decodeRtf bs = .error e) :
    l.tick cfg = l.rejected e := by
  simp only [Lexer.tick, Lexer.next, h.run, h.result, Nat.not_lt.mpr h.cur, if_false, decode, hbuf, hd]

/-- Pending text is the token found, whatever ends it: a delimiter, the end of the buffer or an error (R182 to R184, R191). -/
theorem Lexer.Scanning.tick_flush (hpending : r.tstart < l.cur) (hend : startsWithout isOrdinary (l.buf.drop l.cur) = true) :
    l.tick cfg = .run (l.flush r) := by
  cases hd : decodeRtf (l.buf.drop l.cur) with
  | ok p =>
    obtain ⟨i, rest⟩ := p
    rw [h.tick_read cfg rfl hd]
    exact Lexer.apply_flush h.run h.result h.lphase cfg (decodeRtf_ok hd).1
      (fun bs hi => decodeRtf_ne_text (text := bs) hend (hi ▸ hd)) hpending
  | error e =>
    rw [h.tick_rejected cfg rfl hd]
    obtain rfl | ⟨sub, consumed, rfl, -⟩ := decodeRtf_error hd
    · simp [Lexer.rejected, h.run, Lexer.atEnd, hpending]
    · simp [Lexer.rejected, h.run, hpending]

/-- A run of ordinary bytes becomes pending, is flushed by what ends it, and is returned (R182, R194). -/
theorem Lexer.Scanning.ends_text (hnone : r.tstart = l.cur) {text rest : Buffer} (hbuf : l.buf.drop l.cur = text ++ rest)
    (hne : text ≠ []) (htext : ∀ c ∈ text, isOrdinary c = true) (hrest : startsWithout isOrdinary rest = true) :
    Tick.Ends (Lexer.tick cfg) 3 l { l with cur := l.cur + text.length, run := none } (.ok (.token (.text text))) := by
  have hlen : l.buf.length - l.cur = text.length + rest.length := by rw [← List.length_drop, hbuf, List.length_append]
  have hpos : 0 < text.length := List.length_pos_iff.mpr hne
  have hn : l.cur + text.length ≤ l.buf.length := by omega
  have hread : l.tick cfg = .run { l with cur := l.cur + text.length } := by
    rw [h.tick_read cfg hbuf (decodeRtf_text hne htext hrest)]
    exact Lexer.text_consume h.run h.result h.lphase hn
  have hafter : l.buf.drop (l.cur + text.length) = rest := by rw [← List.drop_drop, hbuf, List.drop_left]
  have hpending : Lexer.pending { l with cur := l.cur + text.length } r = text := by simp [Lexer.pending, hnone, hbuf]
  have hflush := (h.move hn).tick_flush cfg (by simp only; omega) (hafter.symm ▸ hrest)
  rw [Lexer.flush, hpending] at hflush
  exact .run hread (.run hflush (.done (Lexer.tick_token cfg _ r (t := .text text) nofun)))

/-- The end of the buffer with no text pending is the `END` token (R182). -/
theorem Lexer.Scanning.tick_atEnd (hnone : r.tstart = l.cur) (hend : l.cur = l.buf.length) :
    l.tick cfg = .run (l.yield r recordEnd) := by
  rw [h.tick_rejected cfg (hend ▸ List.drop_length) rfl]
  simp [Lexer.rejected, h.run, Lexer.atEnd, hnone]

/-- An error with no text pending fails the lexer where it was found (R198). -/
theorem Lexer.Scanning.tick_error (hnone : r.tstart = l.cur) {sub : LexSub} {consumed : Nat} {bs : Buffer}
    (hbuf : l.buf.drop l.cur = bs) (hd : decodeRtf bs = .error (.lexical sub consumed)) :
    l.tick cfg = .done { l with cur := l.cur + consumed, state := .failed, run := none } (.err (.lexError sub)) := by
  rw [h.tick_rejected cfg hbuf hd]
  simp [Lexer.rejected, h.run, hnone, Lexer.fail, Lexer.endNext]

end

/-! ### Whole commands (R181, R192) -/

theorem Tick.Ends.unique {σ : Type} {tick : σ → Tick σ} {n m : Nat} {e e' e'' : σ} {r r' : Response} (h : Tick.Ends tick n e e' r)
    (h' : Tick.Ends tick m e e'' r') : e' = e'' ∧ r = r' := by
  induction h generalizing m with
  | done hk =>
    cases h' with
    | done hk' => rw [hk] at hk'; cases hk'; exact ⟨rfl, rfl⟩
    | run hk' => rw [hk] at hk'; cases hk'
  | run hk _ ih =>
    obtain ⟨_, hrest⟩ := h'.of_run hk
    exact ih hrest

theorem Lexer.nextResponse_eq_none {l : Lexer} : l.nextResponse = none ↔ l.state = .ready := by
  cases h : l.state <;> simp [Lexer.nextResponse, h]

theorem Lexer.cur_lt_of_drop {l : Lexer} {c : Byte} {rest : Buffer} (h : l.buf.drop l.cur = c :: rest) : l.cur < l.buf.length := by
  have hlen := congrArg List.length h
  rw [List.length_drop, List.length_cons] at hlen
  omega

/-- A `LEX_NEXT` in `READY` is the steps of its scan (R181). -/
theorem Lexer.exists_nextToken_ends {l : Lexer} (cfg : Config) (tag : Nat) (hrun : l.run = none) (hready : l.state = .ready)
    (hcur : l.cur ≤ l.buf.length) :
    ∃ n l' r, l.nextToken cfg tag = .ok (l', r) ∧ l'.Ended ∧ Tick.Ends (Lexer.tick cfg) n (l.beginNext tag) l' r := by
  obtain ⟨l', r, htoken, hended⟩ := Lexer.nextToken_ok cfg tag ((Lexer.sound_idle hrun).mpr hcur) hrun
  have hall := htoken
  simp only [Lexer.nextToken, Lexer.nextResponse_eq_none.mpr hready] at hall
  obtain ⟨n, hends⟩ := Lexer.ends_of_runAll hall
  exact ⟨n, l', r, htoken, hended, hends⟩

theorem Lexer.nextToken_of_ends {l l' : Lexer} {cfg : Config} {tag n : Nat} {r : Response} (hrun : l.run = none)
    (hready : l.state = .ready) (hcur : l.cur ≤ l.buf.length) (hends : Tick.Ends (Lexer.tick cfg) n (l.beginNext tag) l' r) :
    l.nextToken cfg tag = .ok (l', r) := by
  obtain ⟨_, _, _, htoken, -, hends'⟩ := Lexer.exists_nextToken_ends cfg tag hrun hready hcur
  obtain ⟨rfl, rfl⟩ := hends'.unique hends
  exact htoken

section
variable {s : State} {id : Nat} {l l' : Lexer} {r : Response} (hl : s.hasLexer id l)
include hl

theorem exec_lexNext_eq (h : l.nextToken s.cfg s.focus = .ok (l', r)) :
    exec (.lexNext id) s = .next ((s.putLexer id l').finish r) := by
  obtain ⟨hget, hrun⟩ := hl
  change execLexNext id s = _
  rw [execLexNext, State.onLexer_eq _ hget hrun]
  simp only [h, State.answer_ok]

/-- Where `LSTATE` alone answers, the lexer stays as it is (R199, R200). -/
theorem exec_lexNext_terminal (h : l.nextResponse = some r) : exec (.lexNext id) s = .next ((s.putLexer id l).finish r) :=
  exec_lexNext_eq hl (by simp only [Lexer.nextToken, h])

/-- The steps of the scan up to a response are the `LEX_NEXT`: it moves `LCUR` and `LSTATE`, and gives that response (R181, R182). -/
theorem exec_lexNext_of_ends {n cur : Nat} {state : LState} (hready : l.state = .ready) (hcur : l.cur ≤ l.buf.length)
    (hends : Tick.Ends (Lexer.tick s.cfg) n (l.beginNext s.focus) { l with cur := cur, state := state, run := none } r) :
    exec (.lexNext id) s = .next ((s.putLexer id { l with cur := cur, state := state }).finish r) := by
  rw [hl.2]
  exact exec_lexNext_eq hl (Lexer.nextToken_of_ends hl.2 hready hcur hends)

/-- A `LEX_NEXT` whose first step leads to the start of one from other registers of the same lexer is that one (R191). -/
theorem exec_lexNext_of_restart {l₁ : Lexer} (hready : l.state = .ready) (hcur : l.cur ≤ l.buf.length) (hrun₁ : l₁.run = none)
    (hready₁ : l₁.state = .ready) (hcur₁ : l₁.cur ≤ l₁.buf.length)
    (hk : (l.beginNext s.focus).tick s.cfg = .run (l₁.beginNext s.focus)) :
    exec (.lexNext id) s = exec (.lexNext id) (s.putLexer id l₁) := by
  obtain ⟨n, l', r, htoken, -, hends⟩ := Lexer.exists_nextToken_ends s.cfg s.focus hrun₁ hready₁ hcur₁
  have hl₁ : (s.putLexer id l₁).hasLexer id l₁ := ⟨Table.get_put_same .., hrun₁⟩
  rw [exec_lexNext_eq hl (Lexer.nextToken_of_ends hl.2 hready hcur (.run hk hends)), exec_lexNext_eq hl₁ htoken,
    State.putLexer_putLexer]

theorem exec_lexSkip_eq (n : Int) :
    exec (.lexSkip id n) s = .next ((s.putLexer id (l.skip n).1).finish (l.skip n).2) := by
  obtain ⟨hget, hrun⟩ := hl
  change execLexSkip id n s = _
  rw [execLexSkip, State.onLexer_eq _ hget hrun, State.answer_ok]

theorem exec_lexClose_eq : exec (.lexClose id) s = .next ((s.dropLexer id).finish (.ok .nothing)) :=
  State.onLexer_eq _ hl.1 hl.2

end

theorem Lexer.skip_ready {l : Lexer} (hready : l.state = .ready) (n : Int) :
    l.skip n =
      if n ≤ 0 then (l, .err (.invalidArgument .skipNonPositive))
      else if (l.buf.length : Int) - l.cur < n then (l, .err (.invalidArgument .skipTooLong))
      else ({ l with cur := l.cur + n.toNat }, .ok (.bytes ((l.buf.drop l.cur).take n.toNat))) := by
  simp only [Lexer.skip, hready]

/-! ### `LEX_NEXT` by what stands at `LCUR` -/

section
variable {s : State} {id : Nat} {l : Lexer} (hl : s.hasLexer id l) (hready : l.state = .ready)
include hl hready

/-- A delimiter at `LCUR` that is consumed and found is the token (R183 to R190). -/
theorem exec_lexNext_token {i : Instr} {bs rest : Buffer} {cur : Nat} {r : LexRun} {t : Token} (hcur : l.cur ≤ l.buf.length)
    (hbuf : l.buf.drop l.cur = bs) (hd : decodeRtf bs = .ok (i, rest)) (ht : t ≠ .endOfStream)
    (happly : (l.beginNext s.focus).apply s.cfg i = .run ({ l.beginNext s.focus with cur := cur }.yield r t.record)) :
    exec (.lexNext id) s = .next ((s.putLexer id { l with cur := cur }).finish (.ok (.token t))) := by
  have hscan := Lexer.beginNext_scanning s.focus hready hcur
  exact exec_lexNext_of_ends hl hready hcur
    (.run ((hscan.tick_read s.cfg hbuf hd).trans happly) (.done (Lexer.tick_token s.cfg _ r ht)))

/-- An error at `LCUR` fails the lexer (R198). -/
theorem exec_lexNext_error {sub : LexSub} {consumed : Nat} {bs : Buffer} (hcur : l.cur ≤ l.buf.length)
    (hbuf : l.buf.drop l.cur = bs) (hd : decodeRtf bs = .error (.lexical sub consumed)) :
    exec (.lexNext id) s =
      .next ((s.putLexer id { l with cur := l.cur + consumed, state := .failed }).raise (.lexError sub)) :=
  exec_lexNext_of_ends hl hready hcur (.done ((Lexer.beginNext_scanning s.focus hready hcur).tick_error s.cfg rfl hbuf hd))

/-- Ordinary bytes at `LCUR` are the `TEXT` token, and what ends them is not consumed (R182, R194). -/
theorem exec_lexNext_text {text rest : Buffer} (hbuf : l.buf.drop l.cur = text ++ rest) (hne : text ≠ [])
    (htext : ∀ c ∈ text, isOrdinary c = true) (hrest : startsWithout isOrdinary rest = true) :
    exec (.lexNext id) s =
      .next ((s.putLexer id { l with cur := l.cur + text.length }).finish (.ok (.token (.text text)))) := by
  have hlen : l.buf.length - l.cur = text.length + rest.length := by rw [← List.length_drop, hbuf, List.length_append]
  have hpos : 0 < text.length := List.length_pos_iff.mpr hne
  have hcur : l.cur ≤ l.buf.length := by omega
  exact exec_lexNext_of_ends hl hready hcur
    ((Lexer.beginNext_scanning s.focus hready hcur).ends_text s.cfg rfl hbuf hne htext hrest)

end

end Sys2Proof.Machine
end

section
/-! SUPPORT. What the steps of a `LEX_NEXT` keep from its start to its response (45_lexer.md rules R195, R196): the buffer stays, `LCUR`
never goes back, and a token other than `END` has consumed a byte. -/

namespace Sys2Proof.Machine

/-- A scan that began at the registers `l₀`: pending text began at or after them, and a token found, unless it is `END`, has moved `LCUR`
past them. -/
structure Lexer.ScansSince (l₀ l : Lexer) (r : LexRun) : Prop where
  run : l.run = some r
  buf : l.buf = l₀.buf
  state : l.state = .ready
  cur : l₀.cur ≤ l.cur
  tstart : l₀.cur ≤ r.tstart
  found : ∀ rec, r.result = some rec → rec = recordEnd ∨ l₀.cur < l.cur

/-- What a `LEX_NEXT` leaves with its response. -/
structure Lexer.AnswersSince (l₀ l : Lexer) (a : Response) : Prop where
  buf : l.buf = l₀.buf
  cur : l₀.cur ≤ l.cur
  token : ∀ t, a = .ok (.token t) → t ≠ .endOfStream → l₀.cur < l.cur ∧ l.state = .ready

theorem Lexer.ScansSince.begin {l : Lexer} (tag : Nat) (hready : l.state = .ready) :
    l.ScansSince (l.beginNext tag) (LexRun.start tag l.cur) :=
  ⟨rfl, rfl, hready, Nat.le_refl _, Nat.le_refl _, nofun⟩

theorem Lexer.apply_rtf_not_done {l l' : Lexer} {i : Instr} {cfg : Config} {a : Response} (hplace : i.place = .rtf) :
    l.apply cfg i ≠ .done l' a := by
  cases i
  case rtfOpen | rtfClose | rtfLineBreak | rtfControlSymbol | rtfControlWord => exact Lexer.delimiter_not_done
  case rtfText bs =>
    change l.text bs ≠ _
    unfold Lexer.text
    repeat' split
    all_goals simp
  all_goals cases hplace

/-- An element that ends a `LEX_NEXT` returns a token and leaves `LCUR` where it stands; the `END` record alone changes `LSTATE`. -/
theorem Lexer.apply_done {l l' : Lexer} {i : Instr} {cfg : Config} {a : Response} (hk : l.apply cfg i = .done l' a) :
    ∃ t, a = .ok (.token t) ∧ l'.buf = l.buf ∧ l'.cur = l.cur ∧ (t ≠ .endOfStream → i ≠ .tokenEnd ∧ l'.state = l.state) := by
  cases i
  case tokenEnd =>
    obtain ⟨-, -, -, rfl, rfl⟩ := Lexer.deliver_done (l := { l with state := .exhausted }) hk
    exact ⟨_, rfl, rfl, rfl, fun hne => absurd rfl hne⟩
  case tokenGroup | tokenControlSymbol | tokenControlWord | tokenText =>
    obtain ⟨-, -, -, rfl, rfl⟩ := Lexer.deliver_done hk
    exact ⟨_, rfl, rfl, rfl, fun _ => ⟨nofun, rfl⟩⟩
  case rtfOpen | rtfClose | rtfLineBreak | rtfControlSymbol | rtfControlWord | rtfText =>
    exact (Lexer.apply_rtf_not_done rfl hk).elim
  all_goals cases hk

section
variable {l₀ l l' : Lexer} {r : LexRun} {cfg : Config} (h : l₀.ScansSince l r)
include h

theorem Lexer.ScansSince.flush (hpending : r.tstart < l.cur) :
    l₀.ScansSince (l.flush r) { r with result := some (recordText (l.pending r)) } :=
  ⟨rfl, h.buf, h.state, h.cur, h.tstart, fun _ _ => .inr (Nat.lt_of_le_of_lt h.tstart hpending)⟩

/-- A delimiter flushes pending text, or moves `LCUR` on. -/
theorem Lexer.ScansSince.delimiter {n : Nat} {effect : LexRun → Lexer} (hk : l.delimiter n effect = .run l')
    (heffect : ∃ r', l₀.ScansSince (effect r) r') : ∃ r', l₀.ScansSince l' r' := by
  obtain ⟨r₁, hrun, -, -, ⟨hpending, rfl⟩ | ⟨-, -, rfl⟩⟩ := Lexer.delimiter_run hk
  all_goals obtain rfl : r = r₁ := Option.some.inj (h.run.symm.trans hrun)
  · exact ⟨_, h.flush hpending⟩
  · exact heffect

/-- A token found `n` bytes further on. -/
theorem Lexer.ScansSince.yield {r' : LexRun} {n : Nat} (hn : 0 < n) (htstart : r'.tstart = r.tstart) (record : Record) :
    ∃ r'', l₀.ScansSince ({ l with cur := l.cur + n }.yield r' record) r'' :=
  ⟨_, rfl, h.buf, h.state, Nat.le_add_right_of_le h.cur, htstart ▸ h.tstart,
    fun _ _ => .inr (Nat.lt_of_le_of_lt h.cur (Nat.lt_add_of_pos_right hn))⟩

theorem Lexer.ScansSince.apply_run {i : Instr} (hk : l.apply cfg i = .run l') : ∃ r', l₀.ScansSince l' r' := by
  cases i
  case rtfOpen | rtfClose => exact h.delimiter hk (h.yield Nat.one_pos rfl _)
  case rtfControlSymbol => exact h.delimiter hk (h.yield Nat.two_pos (by rfl) _)
  case rtfControlWord kw neg ds space =>
    exact h.delimiter hk (h.yield (n := 1 + kw.length + neg.toNat + ds.length + space.toNat) (by omega) (by rfl) _)
  case rtfLineBreak =>
    have hcur : l₀.cur ≤ l.cur + 1 := Nat.le_add_right_of_le h.cur
    exact h.delimiter hk ⟨_, rfl, h.buf, h.state, hcur, hcur, fun _ _ => .inr (Nat.lt_succ_of_le h.cur)⟩
  case rtfText bs =>
    obtain ⟨r₁, hrun, hresult, -, -, rfl⟩ := Lexer.text_run hk
    exact ⟨r₁, hrun, h.buf, h.state, Nat.le_add_right_of_le h.cur, Option.some.inj (h.run.symm.trans hrun) ▸ h.tstart,
      fun rec hrec => by simp [hresult] at hrec⟩
  case tokenEnd | tokenGroup | tokenControlSymbol | tokenControlWord | tokenText => exact (Lexer.deliver_not_run hk).elim
  all_goals cases hk

theorem Lexer.ScansSince.rejected_run {e : Reject} (hk : l.rejected e = .run l') : ∃ r', l₀.ScansSince l' r' := by
  cases e with
  | endOfBuffer =>
    simp only [Lexer.rejected, h.run, Lexer.atEnd] at hk
    split at hk
    case isTrue hpending => cases hk; exact ⟨_, h.flush hpending⟩
    case isFalse =>
      cases hk
      exact ⟨_, rfl, h.buf, h.state, h.cur, h.tstart, fun rec hrec => .inl (Option.some.inj hrec).symm⟩
  | lexical sub consumed =>
    simp only [Lexer.rejected, h.run] at hk
    split at hk
    case isTrue hpending => cases hk; exact ⟨_, h.flush hpending⟩
    case isFalse => cases hk
  | notACommand | missingOperand | operandNotU32 | tooShort | unknownKind => simp [Lexer.rejected, h.run] at hk

theorem Lexer.ScansSince.tick_run (hk : l.tick cfg = .run l') : ∃ r', l₀.ScansSince l' r' := by
  unfold Lexer.tick at hk
  split at hk
  · cases hk
  · cases hk
  · split at hk
    · exact h.rejected_run hk
    · exact h.apply_run hk

theorem Lexer.ScansSince.rejected_done {e : Reject} {a : Response} (hk : l.rejected e = .done l' a) : l₀.AnswersSince l' a := by
  cases e with
  | endOfBuffer =>
    simp only [Lexer.rejected, h.run, Lexer.atEnd] at hk
    split at hk <;> cases hk
  | lexical sub consumed =>
    simp only [Lexer.rejected, h.run] at hk
    split at hk
    · cases hk
    · cases hk
      exact ⟨h.buf, Nat.le_add_right_of_le h.cur, nofun⟩
  | notACommand | missingOperand | operandNotU32 | tooShort | unknownKind => simp [Lexer.rejected, h.run] at hk

/-- A token found is returned as its record has it. -/
theorem Lexer.ScansSince.tick_done {a : Response} (hk : l.tick cfg = .done l' a) : l₀.AnswersSince l' a := by
  cases hresult : r.result with
  | none =>
    simp only [Lexer.tick, Lexer.next, h.run, hresult] at hk
    split at hk
    · cases hk
    · cases hk
    · rename_i c hc
      split at hc
      · cases hc
      · cases hc
        split at hk
        · exact h.rejected_done hk
        · rename_i hd
          exact (Lexer.apply_rtf_not_done (decode_place hd) hk).elim
  | some rec =>
    simp only [Lexer.tick, Lexer.next, h.run, hresult] at hk
    split at hk
    · exact h.rejected_done hk
    · rename_i i _ hd
      obtain ⟨t, rfl, hbuf, hcur, hstate⟩ := Lexer.apply_done hk
      refine ⟨hbuf.trans h.buf, hcur ▸ h.cur, fun t' ht' hne => ?_⟩
      cases ht'
      obtain ⟨hi, hstate⟩ := hstate hne
      obtain rfl | hlt := h.found rec hresult
      · cases hd
        exact absurd rfl hi
      · exact ⟨hcur ▸ hlt, hstate.trans h.state⟩

theorem Lexer.ScansSince.ends {n : Nat} {a : Response} (hends : Tick.Ends (Lexer.tick cfg) n l l' a) : l₀.AnswersSince l' a := by
  induction hends generalizing r with
  | done hk => exact h.tick_done hk
  | run hk _ ih =>
    obtain ⟨r', h'⟩ := h.tick_run hk
    exact ih h'

end

end Sys2Proof.Machine
end

section
/-! CERTIFICATES. The lexer (45_lexer.md): whole commands (rules R180 to R200), and the RTF elements of a `LEX_NEXT` in progress (rules
R182 to R194). -/

namespace Sys2Proof.Machine

/-! ### `LEX_NEXT` -/

/-- Settles O47: its steps end from any `LCUR` inside the buffer, and keep what they leave from the first on; in the other states the
lexer stays as it is. -/
theorem lexNextAlwaysAnswers : Obligations.LexNextAlwaysAnswers := by
  intro id l s hl hcur
  cases hresponse : l.nextResponse with
  | some r =>
    refine ⟨l, r, exec_lexNext_terminal hl hresponse, rfl, Nat.le_refl _, hcur, fun _ hready => ?_⟩
    rw [Lexer.nextResponse_eq_none.mpr hready] at hresponse
    cases hresponse
  | none =>
    have hready : l.state = .ready := Lexer.nextResponse_eq_none.mp hresponse
    obtain ⟨n, l', r, htoken, ⟨hsound, hidle⟩, hends⟩ := Lexer.exists_nextToken_ends s.cfg s.focus hl.2 hready hcur
    obtain ⟨hbuf, hle, hadvance⟩ := (Lexer.ScansSince.begin s.focus hready).ends hends
    refine ⟨l', r, exec_lexNext_eq hl htoken, ?_, hle, hbuf ▸ Lexer.cur_le_of_sound hsound, fun t _ => hadvance t⟩
    rw [hl.2, ← hbuf, ← hidle]

/-- Settles O48: the run is read as pending text, flushed by what ends it, and returned. -/
theorem lexNextReturnsText : Obligations.LexNextReturnsText :=
  fun _ _ _ _ _ hl hready => exec_lexNext_text hl hready

/-- Settles O49: before a brace a run of ordinary bytes is `TEXT`; a brace at `LCUR` is read, and its group found. -/
theorem lexNextAtABrace : Obligations.LexNextAtABrace := by
  intro id l s text rest isOpen hl hready htext hbuf
  split
  case isTrue hnil =>
    subst hnil
    have hn : l.cur + 1 ≤ l.buf.length := Lexer.cur_lt_of_drop hbuf
    have hgroup := Lexer.group_consume (l := l.beginNext s.focus) rfl rfl rfl isOpen rfl hn
    cases isOpen with
    | true => exact exec_lexNext_token hl hready (by omega) hbuf (decodeRtf_open rest) (t := .group true) nofun hgroup
    | false => exact exec_lexNext_token hl hready (by omega) hbuf (decodeRtf_close rest) (t := .group false) nofun hgroup
  case isFalse hne =>
    exact exec_lexNext_text hl hready hbuf hne htext (by cases isOpen <;> rfl)

/-- Settles O51: before a line break a run of ordinary bytes is `TEXT`; a line break at `LCUR` is a step to the scan one byte further. -/
theorem lexNextAtALineBreak : Obligations.LexNextAtALineBreak := by
  intro id l s c text rest hl hready htext hc hbuf
  split
  case isTrue hnil =>
    subst hnil
    have hcur := Lexer.cur_lt_of_drop hbuf
    have hscan := Lexer.beginNext_scanning s.focus hready hcur.le
    refine exec_lexNext_of_restart (l₁ := { l with cur := l.cur + 1 }) hl hready hcur.le hl.2 hready hcur ?_
    rw [hscan.tick_read s.cfg hbuf (decodeRtf_lineBreak hc rest)]
    exact Lexer.lineBreak_consume hscan.run rfl rfl rfl hcur
  case isFalse hne =>
    exact exec_lexNext_text hl hready hbuf hne htext (by rcases hc with rfl | rfl <;> rfl)

/-- Settles O50: a control word or symbol at `LCUR` is read whole, consumed and found; the parameter by its sign and digits. -/
theorem lexNextReturnsControlTokens : Obligations.LexNextReturnsControlTokens := by
  refine ⟨fun id l s rest hl hready => ⟨fun kw neg ds space hwf hfollows hbuf => ?word, fun c hc hbuf => ?symbol⟩,
    fun cfg v hlow hhigh => paramConvert_within cfg hlow hhigh, paramConvert_standard, rfl, decimalValue_append⟩
  case word =>
    have hlen := congrArg List.length hbuf
    rw [List.length_drop, List.length_append, Laws.ByteLength.rtfControlWord kw neg ds space, Instr.byteLength] at hlen
    rw [← paramValue_eq]
    have hn : l.cur + (1 + kw.length + neg.toNat + ds.length + space.toNat) ≤ l.buf.length := by omega
    exact exec_lexNext_token hl hready (by omega) hbuf (decodeRtf_controlWord hwf hfollows) (t := .controlWord kw _) nofun
      (Lexer.controlWord_consume (l := l.beginNext s.focus) rfl rfl rfl s.cfg rfl hn)
  case symbol =>
    have hlen := congrArg List.length hbuf
    rw [List.length_drop, List.length_cons, List.length_cons] at hlen
    have hn : l.cur + 2 ≤ l.buf.length := by omega
    exact exec_lexNext_token hl hready (by omega) hbuf (decodeRtf_controlSymbol hc rest) (t := .controlSymbol c) nofun
      (Lexer.controlSymbol_consume (l := l.beginNext s.focus) rfl rfl rfl c rfl hn)

/-- Settles O52: what the decoder rejects at the backslash, and how far it has read there. -/
theorem lexicalErrorsFailTheInstance : Obligations.LexicalErrorsFailTheInstance := by
  intro id l s kw ds rest neg hl hready hkw hds
  refine ⟨fun hbuf hlen => ?underrun, fun hbuf hlen => ?keyword, fun hbuf hpos hlen hcount => ?parameter⟩
  case underrun =>
    have hcur := Lexer.cur_lt_of_drop hbuf
    have hend : l.buf.length = l.cur + (1 + kw.length) := by
      have hlen := congrArg List.length hbuf
      rw [List.length_drop, List.length_cons] at hlen
      omega
    rw [hend]
    exact exec_lexNext_error hl hready hcur.le hbuf (decodeRtf_keyword_underrun hkw hlen)
  case keyword =>
    have hne : kw ≠ [] := List.ne_nil_of_length_eq_add_one hlen
    exact exec_lexNext_error hl hready (Lexer.cur_lt_of_drop hbuf).le hbuf
      ((decodeRtf_keyword hne hkw rest).trans (decodeControlWord_tooLong hkw (hlen.symm ▸ Nat.lt_succ_self 32) rest))
  case parameter =>
    have hcur : l.cur ≤ l.buf.length := by
      simp only [List.append_assoc, List.cons_append] at hbuf
      exact (Lexer.cur_lt_of_drop hbuf).le
    have hconsumed : 11 + kw.length + neg.toNat = 1 + kw.length + neg.toNat + 10 := by omega
    rw [hconsumed]
    exact exec_lexNext_error hl hready hcur (hbuf.trans (by simp [optionalByte]))
      (decodeRtf_parameterTooLong neg rest (List.length_pos_iff.mp hpos) hkw hlen hds (hcount.symm ▸ Nat.lt_succ_self 10))

/-- Settles O53: at the end of the buffer the scan finds `END`; in the terminal states `LSTATE` alone answers. -/
theorem terminalLexersStay : Obligations.TerminalLexersStay := by
  intro id l s n hl
  refine ⟨fun hready hend => ?ready, fun hfailed => ?failed, fun hexhausted => ?exhausted, fun j => ?others⟩
  case ready =>
    exact exec_lexNext_of_ends hl hready hend.le (.run ((Lexer.beginNext_scanning s.focus hready hend.le).tick_atEnd s.cfg rfl hend)
      (.done (Lexer.tick_end ..)))
  case failed =>
    have hskip : l.skip n = (l, .err (.invalidArgument .lexerFailed)) := by simp only [Lexer.skip, hfailed]
    refine ⟨exec_lexNext_terminal hl (by simp only [Lexer.nextResponse, hfailed]), ?_⟩
    rw [exec_lexSkip_eq hl, hskip, State.raise]
  case exhausted =>
    have hskip : l.skip n = (l, .err (.invalidArgument .skipAfterExhausted)) := by simp only [Lexer.skip, hexhausted]
    refine ⟨exec_lexNext_terminal hl (by simp only [Lexer.nextResponse, hexhausted]), ?_⟩
    rw [exec_lexSkip_eq hl, hskip, State.raise]
  case others =>
    rw [State.putLexer_lexers]
    by_cases hj : j = id
    · rw [hj, Table.get_put_same, hl.1]
    · exact Table.get_put_other _ _ hj

/-! ### The other commands -/

/-- Settles O46: the table is read back after the new lexer is put. -/
theorem lexOpenMakesAnInstance : Obligations.LexOpenMakesAnInstance :=
  fun _ _ => ⟨_, rfl, Table.get_put_same .., fun _ hid => Table.get_put_other _ _ hid, rfl, rfl⟩

/-- Settles O54: the checks of `LEX_SKIP` in their order, with the bytes left counted. -/
theorem lexSkipReturnsRawBytes : Obligations.LexSkipReturnsRawBytes := by
  intro id l s n hl hready hcur
  rw [exec_lexSkip_eq hl]
  refine ⟨fun bs rest hbuf hne hn => ?bytes, fun hn => ?nonPositive, fun hn hpos => ?tooLong⟩
  case bytes =>
    have hlen := congrArg List.length hbuf
    rw [List.length_drop, List.length_append] at hlen
    have hpos : 0 < bs.length := List.length_pos_iff.mpr hne
    subst hn
    rw [Lexer.skip_ready hready, if_neg (by omega), if_neg (by omega), hbuf, Int.toNat_natCast, List.take_left]
  case nonPositive => rw [Lexer.skip_ready hready, if_pos hn, State.raise]
  case tooLong => rw [Lexer.skip_ready hready, if_neg (by omega), if_pos hn, State.raise]

/-- Settles O55: the table is read back after the lexer is dropped. -/
theorem lexCloseEndsTheInstance : Obligations.LexCloseEndsTheInstance :=
  fun _ _ _ hl => ⟨exec_lexClose_eq hl, Table.get_del_same .., fun _ hj => Table.get_del_other _ hj⟩

/-! ### RTF elements in their place -/

/-- Settles O57: each is consumed in the scan in focus. -/
theorem syntaxElementsAreConsumed : Obligations.SyntaxElementsAreConsumed := by
  rintro s id l r ⟨hfind, hrun, hresult, hphase⟩ hnone
  refine ⟨fun hn => ⟨?opening, ?closing, fun c => ?lineBreak⟩, fun c hn => ?symbol, fun kw neg ds space hn => ?word⟩
  case opening => exact exec_scan_run rfl hfind (Lexer.group_consume hrun hresult hphase true hnone hn)
  case closing => exact exec_scan_run rfl hfind (Lexer.group_consume hrun hresult hphase false hnone hn)
  case lineBreak => exact exec_scan_run rfl hfind (Lexer.lineBreak_consume hrun hresult hphase hnone hn)
  case symbol => exact exec_scan_run rfl hfind (Lexer.controlSymbol_consume hrun hresult hphase c hnone hn)
  case word => exact exec_scan_run rfl hfind (Lexer.controlWord_consume hrun hresult hphase s.cfg hnone hn)

/-- Settles O58: none of the five is text, and each flushes first. -/
theorem delimitersFlushPendingText : Obligations.DelimitersFlushPendingText := by
  rintro s id l r i ⟨hfind, hrun, hresult, hphase⟩ hpending hi
  obtain ⟨hplace, htext⟩ : i.place = .rtf ∧ ∀ bs, i ≠ .rtfText bs := by
    rcases hi with rfl | rfl | ⟨_, rfl⟩ | ⟨_, rfl⟩ | ⟨_, _, _, _, rfl⟩ <;> exact ⟨rfl, nofun⟩
  exact exec_scan_run hplace hfind (Lexer.apply_flush hrun hresult hphase s.cfg hplace htext hpending)

/-- Settles O59: text in the scan in focus. -/
theorem textBytesBecomePending : Obligations.TextBytesBecomePending :=
  fun _ _ _ _ _ ⟨hfind, hrun, hresult, hphase⟩ hn => exec_scan_run rfl hfind (Lexer.text_consume hrun hresult hphase hn)

end Sys2Proof.Machine
end

section
/-! SUPPORT. What the error mechanism leaves behind (60_exceptions.md rules R210, R211, R218, R229): the phases and flags of a tag without an
engine, the refusals of a lexer command, and the step of a lexer that stands at an error. -/

namespace Sys2Proof.Machine

/-! ### A tag without an engine (R26, R28, R31, R230) -/

section
variable {s : State} {tag : Nat} (h : Table.get s.engines tag = none)
include h

theorem State.dictOf_of_no_engine : s.dictOf tag = none := by simp only [State.dictOf, h]

theorem State.cphase_of_no_engine : s.cphase tag = .idle := by simp only [State.cphase, h]

theorem State.dphase_of_no_engine : s.dphase tag = .idle := by simp only [State.dphase, h]

theorem State.finished_of_no_engine : s.finished tag = false := by simp only [State.finished, h]

theorem State.eosSeen_of_no_engine : s.eosSeen tag = false := by simp only [State.eosSeen, h]

end

/-! ### The end of a command's engine (R35, R210) -/

theorem State.raise_no_engine (s : State) (e : Err) : Table.get (s.raise e).engines s.focus = none := Table.get_del_same ..

theorem State.raise_engine_other (s : State) (e : Err) {tag : Nat} (h : tag ≠ s.focus) :
    Table.get (s.raise e).engines tag = Table.get s.engines tag :=
  Table.get_del_other _ h

/-! ### Error codes (R211) -/

theorem Err.kindCode_pos (e : Err) : 0 < e.kindCode := by
  cases e <;> exact Nat.succ_pos _

theorem Response.errCodes_err_ne (e : Err) : (Response.err e).errCodes ≠ (0, 0) :=
  fun h => (Err.kindCode_pos e).ne' (congrArg Prod.fst h)

/-! ### Lexer commands without an idle instance (R218, R229) -/

theorem State.onLexer_absent {s : State} {id : Nat} (f : Lexer → Host.Outcome State Fault Refusal)
    (h : Table.get s.lexers id = none) : s.onLexer id f = .refused (.noSuchLexer id) := by
  simp only [State.onLexer, h]

theorem State.onLexer_busy {s : State} {id : Nat} {l : Lexer} (f : Lexer → Host.Outcome State Fault Refusal)
    (hl : Table.get s.lexers id = some l) (hr : l.run ≠ none) : s.onLexer id f = .refused (.lexerBusy id) := by
  simp only [State.onLexer, hl, Option.isSome_iff_ne_none.mpr hr, if_true]

/-! ### A lexer at an error in a control token (R184, R198) -/

/-- With no text pending, the error fails the lexer where it was found (R198). -/
theorem Lexer.rejected_lexical {l : Lexer} {r : LexRun} (hrun : l.run = some r) (hnone : r.tstart = l.cur) (sub : LexSub) (n : Nat) :
    l.rejected (.lexical sub n) = .done { l with cur := l.cur + n, state := .failed, run := none } (.err (.lexError sub)) := by
  simp only [Lexer.rejected, hrun, hnone, Nat.lt_irrefl, if_false, Lexer.fail, Lexer.endNext]

/-- An advance at an error of the decoder is `Lexer.rejected`, whatever `LSTATE` and the pending text (R182, R198). -/
theorem State.advance_scan_rejected {s : State} {id : Nat} {l : Lexer} {r : LexRun} {e : Reject}
    (hengine : Table.get s.engines s.focus = none) (hscan : s.scans id l r) (hcur : l.cur ≤ l.buf.length)
    (hd : decode (.rtf (l.buf.drop l.cur)) = .error e) : s.advance = s.onScan (fun l => l.rejected e) := by
  obtain ⟨hfind, hrun, hresult, -⟩ := hscan
  have hnext : s.next = some (.read (.rtf (l.buf.drop l.cur))) := by
    simp only [State.next, hengine, hfind, Option.map_some, Lexer.next, hrun, hresult, Nat.not_lt.mpr hcur, if_false]
  simp only [State.advance, hnext, hd, State.rejected]

end Sys2Proof.Machine
end

section
/-! CERTIFICATES. The exceptions (60_exceptions.md): the error mechanism (rules R210, R211) and the refused lexer commands (rules R218,
R229). -/

namespace Sys2Proof.Machine

/-- Settles O43: the engine in focus is removed and the tag then holds none; a lexer at an error takes the step of `LexFail`; the codes
are read off the table. -/
theorem raisingAnErrorEndsTheCommand : Obligations.RaisingAnErrorEndsTheCommand := by
  refine ⟨fun s e => ?raised, fun s tag rest id l r sub n hm hengine hscan hnone hcur hd => ?lexFail,
    fun _ e => ⟨rfl, Response.errCodes_err_ne e⟩, rfl, rfl, rfl, rfl, rfl, rfl⟩
  case raised =>
    have hidle := s.raise_no_engine e
    exact ⟨rfl, hidle, State.dictOf_of_no_engine hidle, State.cphase_of_no_engine hidle, State.dphase_of_no_engine hidle,
      State.finished_of_no_engine hidle, State.eosSeen_of_no_engine hidle, fun _ htag => s.raise_engine_other e htag,
      rfl, rfl, rfl, rfl, rfl⟩
  case lexFail =>
    rw [step_of_advance hm, State.advance_scan_rejected hengine hscan hcur hd]
    obtain ⟨hfind, hrun, -, -⟩ := hscan
    exact State.onScan_done hfind (Lexer.rejected_lexical hrun hnone sub n)

/-- Settles O56: each of the three commands acts through its instance, which is absent or busy. -/
theorem lexerProtocolViolationsAreRefused : Obligations.LexerProtocolViolationsAreRefused :=
  fun _ _ _ =>
    ⟨fun habsent => ⟨State.onLexer_absent _ habsent, State.onLexer_absent _ habsent, State.onLexer_absent _ habsent⟩,
      fun _ hl hbusy => ⟨State.onLexer_busy _ hl hbusy, State.onLexer_busy _ hl hbusy, State.onLexer_busy _ hl hbusy⟩⟩

end Sys2Proof.Machine
end

section
/-! SUPPORT. The state after reset (70_reset_and_hazards.md rules R230, R231): its tables of engines and of lexer instances are empty. -/

namespace Sys2Proof.Machine

theorem State.reset_no_engine (tag : Nat) : Table.get State.reset.engines tag = none := rfl

theorem State.reset_no_lexer (id : Nat) : Table.get State.reset.lexers id = none := rfl

theorem State.reset_tagBusy (tag : Nat) : State.reset.tagBusy tag = false :=
  State.tagBusy_eq_false.mpr ⟨State.reset_no_engine tag, rfl⟩

end Sys2Proof.Machine
end

section
/-! CERTIFICATES. Reset (70_reset_and_hazards.md rules R230, R231) and the content of the two ROMs (rules R84, R101). -/

namespace Sys2Proof.Machine

/-- Settles O8: no tag holds an engine, so every phase, flag and dictionary reads its value between commands; the table was compared with
its loop for the CRC engine. -/
theorem resetState : Obligations.ResetState := by
  refine ⟨fun tag => ?noCommand, State.reset_no_lexer, ?seed, crcTable_eq_loop⟩
  case noCommand =>
    have hidle := State.reset_no_engine tag
    exact ⟨State.reset_tagBusy tag, State.cphase_of_no_engine hidle, State.dphase_of_no_engine hidle,
      State.finished_of_no_engine hidle, State.eosSeen_of_no_engine hidle, State.dictOf_of_no_engine hidle⟩
  case seed => decide +kernel

end Sys2Proof.Machine
end

section
/-! SUPPORT. The encoder against the decoder, place by place (30_encoding.md): what each kind of encoding decodes to, and that the bytes an
instruction was read from are its encoding. -/

namespace Sys2Proof

/-- An instruction is encoded in the place it is read from. -/
theorem encode_place (i : Instr) : (encode i).place = i.place := by
  cases i
  all_goals rfl

/-! ### Commands and token records (R88, R90) -/

/-- The places that are no byte stream: the command port and the lexer's result. -/
def Place.offStream : Place → Bool
  | .command | .record => true
  | .header | .control | .body | .rtf => false

theorem Code.bytes_offStream {c : Code} (h : c.place.offStream = true) : c.bytes = [] := by
  cases c with
  | command | record => rfl
  | header | control | body | rtf => cases h

theorem Code.append_offStream {c : Code} (h : c.place.offStream = true) (rest : Buffer) : c.append rest = c := by
  cases c with
  | command | record => rfl
  | header | control | body | rtf => cases h

/-- No byte follows a command or a token record. -/
theorem follows_offStream {i : Instr} {rest : Buffer} (h : i.place.offStream = true) (hfollows : follows i rest = true) : rest = [] := by
  refine List.isEmpty_iff.mp ?_
  cases i
  case crc32 | compress | decompress | parseHeader | lexOpen | lexNext | lexSkip | lexClose => exact hfollows
  case tokenEnd | tokenGroup | tokenControlSymbol | tokenControlWord | tokenText => exact hfollows
  all_goals cases h

/-- A u32 operand that is given is read as it was given (R90). -/
theorem u32Operand_toNat (w : Word32) (dflt : Option Word32) : u32Operand (some w.toNat) dflt = .ok w := by
  simp [u32Operand, w.isLt]

theorem decode_encode_offStream {i : Instr} (h : i.place.offStream = true) : decode (encode i) = .ok (i, []) := by
  cases i
  case crc32 | compress => simp [encode, decode, decodeCommand, HostCommand.blank, u32Operand_toNat, Except.map]
  case decompress | parseHeader | lexOpen | lexNext | lexSkip | lexClose => rfl
  case tokenEnd | tokenGroup | tokenControlSymbol | tokenControlWord | tokenText => rfl
  all_goals cases h

theorem exceptMap_pair_rest {a : Except Reject Instr} {i : Instr} {rest : Buffer}
    (h : a.map (fun i => (i, ([] : Buffer))) = .ok (i, rest)) : rest = [] := by
  cases a with
  | error e => cases h
  | ok j => cases h; rfl

/-- A command or a token record leaves no bytes after it. -/
theorem decode_offStream_rest {c : Code} {i : Instr} {rest : Buffer} (h : c.place.offStream = true) (hd : decode c = .ok (i, rest)) :
    rest = [] := by
  cases c with
  | command c => exact exceptMap_pair_rest hd
  | record r => exact exceptMap_pair_rest hd
  | header | control | body | rtf => cases h

/-! ### The container header (R52, R70, R71) -/

/-- Four bytes are the bytes of the field they make up (R52). -/
theorem le32Bytes_le32 (b0 b1 b2 b3 : Byte) : le32Bytes (le32 b0 b1 b2 b3) = [b0, b1, b2, b3] := by
  have h0 : (le32 b0 b1 b2 b3).extractLsb' 0 8 = b0 := BitVec.extractLsb'_append_eq_right
  have h1 : (le32 b0 b1 b2 b3).extractLsb' 8 8 = b1 :=
    (BitVec.extractLsb'_append_eq_of_le (by decide)).trans BitVec.extractLsb'_append_eq_right
  have h2 : (le32 b0 b1 b2 b3).extractLsb' 16 8 = b2 :=
    (BitVec.extractLsb'_append_eq_of_le (by decide)).trans <|
      (BitVec.extractLsb'_append_eq_of_le (by decide)).trans BitVec.extractLsb'_append_eq_right
  have h3 : (le32 b0 b1 b2 b3).extractLsb' 24 8 = b3 :=
    (BitVec.extractLsb'_append_eq_of_le (by decide)).trans <|
      (BitVec.extractLsb'_append_eq_of_le (by decide)).trans BitVec.extractLsb'_append_eq_left
  rw [le32Bytes, h0, h1, h2, h3]

/-- A header that is read is the bytes of its four fields (R70). -/
theorem decodeHeader_bytes {bs rest : Buffer} {i : Instr} (h : decodeHeader bs = .ok (i, rest)) :
    ∃ cs rs ct crc, i = headerOf cs rs ct crc ∧ bs = headerBytes cs rs ct crc ++ rest := by
  unfold decodeHeader at h
  split at h
  · cases h
    refine ⟨_, _, _, _, rfl, ?_⟩
    simp only [headerBytes, le32Bytes_le32, List.cons_append, List.nil_append]
  · cases h

theorem encode_headerOf (cs rs ct crc : Word32) : encode (headerOf cs rs ct crc) = .header (headerBytes cs rs ct crc) := by
  unfold headerOf
  split
  next hc => rw [hc]; rfl
  next =>
    split
    next hu => rw [hu]; rfl
    next => rfl

/-- The header of a type tag carries the tag only where it is neither of the two known (R71). -/
theorem headerOf_wf (cs rs ct crc : Word32) : (headerOf cs rs ct crc).wf = true := by
  unfold headerOf
  split
  next => rfl
  next hc =>
    split
    next => rfl
    next hu => simp [Instr.wf, hc, hu]

/-! ### The compressed stream (R75 to R79) -/

/-- A token body that is read is the encoding of its token. -/
theorem decodeBody_bytes {bit : Bool} {w : Off12} {bs rest : Buffer} {i : Instr} (h : decodeBody bit w bs = .ok (i, rest)) :
    (encode i).bytes ++ rest = bs ∧ i.wf = true := by
  match bit, bs with
  | _, [] => cases h
  | false, b :: bs => cases h; exact ⟨rfl, rfl⟩
  | true, [_] => cases h
  | true, b0 :: b1 :: bs =>
    obtain ⟨off, code, rfl, rfl⟩ := exists_refBody b0 b1
    have hread := (decode_refBody w off code bs).symm.trans h
    split at hread
    all_goals cases hread
    all_goals exact ⟨rfl, rfl⟩

/-- The encoding of a header or of a stream's token decodes to it, whatever follows. -/
theorem decode_encode_stream {i : Instr} (h : i.place.ofStream = true) (hwf : i.wf = true) (rest : Buffer) :
    decode ((encode i).append rest) = .ok (i, rest) := by
  cases i
  case hdrLZFu cs rs crc => exact decode_container cs rs tagCompressed crc rest
  case hdrMELA cs rs crc => exact decode_container cs rs tagUncompressed crc rest
  case hdrOther cs rs ct crc =>
    obtain ⟨hc, hu⟩ : ct ≠ tagCompressed ∧ ct ≠ tagUncompressed := by simpa [Instr.wf] using hwf
    exact (decode_container cs rs ct crc rest).trans (by rw [headerOf_other hc hu])
  case ctrl | lit => rfl
  case ref off code =>
    have hnext : off ≠ off + 1 := by simp
    exact (decode_refBody (off + 1) off code rest).trans (by rw [if_neg hnext])
  case eos off code => exact (decode_refBody off off code rest).trans (by rw [if_pos rfl])
  all_goals cases h

/-! ### RTF syntax (R87, R185 to R191) -/

theorem textOk_iff {bs : Buffer} : textOk bs = true ↔ bs ≠ [] ∧ ∀ c ∈ bs, isOrdinary c = true := by
  simp [textOk]

theorem isLineBreak_eq_true {c : Byte} : isLineBreak c = true ↔ c = byteCR ∨ c = byteLF := by
  simp [isLineBreak]

/-- The encoding of a well-formed syntax element decodes to it where what follows does not extend it. -/
theorem decode_encode_rtf {i : Instr} {rest : Buffer} (h : i.place = .rtf) (hwf : i.wf = true) (hfollows : follows i rest = true) :
    decode ((encode i).append rest) = .ok (i, rest) := by
  cases i
  case rtfOpen => exact decodeRtf_open rest
  case rtfClose => exact decodeRtf_close rest
  case rtfControlSymbol c => exact decodeRtf_controlSymbol (by simpa [Instr.wf] using hwf) rest
  case rtfControlWord kw neg ds space => exact decodeRtf_controlWord hwf hfollows
  case rtfLineBreak c => exact decodeRtf_lineBreak (isLineBreak_eq_true.mp hwf) rest
  case rtfText bs =>
    obtain ⟨hne, htext⟩ := textOk_iff.mp hwf
    exact decodeRtf_text hne htext hfollows
  all_goals cases h

theorem takeSign_bytes (bs : Buffer) : optionalByte (takeSign bs).1 byteMinus ++ (takeSign bs).2 = bs := by
  unfold takeSign
  split
  next c rest =>
    split
    next hc => rw [hc]; rfl
    next => rfl
  next => rfl

theorem takeSpace_bytes (bs : Buffer) : optionalByte (takeSpace bs).1 byteSpace ++ (takeSpace bs).2 = bs := by
  unfold takeSpace
  split
  next c rest =>
    split
    next hc => rw [hc]; rfl
    next => rfl
  next => rfl

/-- A control word that is read from a letter on is the bytes read: keyword, sign, digits and space stand in this order, and each is of its
class and within its length (R186 to R190). -/
theorem decodeControlWord_bytes {c : Byte} {bs rest : Buffer} {i : Instr} (hletter : isLetter c = true)
    (h : decodeControlWord (c :: bs) = .ok (i, rest)) :
    (encode i).bytes ++ rest = byteBackslash :: c :: bs ∧ i.wf = true := by
  have hne : (c :: bs).takeWhile isLetter ≠ [] := by simp [hletter]
  generalize c :: bs = text at h hne ⊢
  unfold decodeControlWord at h
  dsimp only at h
  split at h
  next => cases h
  next hlen =>
    split at h
    next => cases h
    next =>
      split at h
      next => cases h
      next hcount =>
        cases h
        constructor
        · rw [encode_controlWord_bytes, takeSpace_bytes, List.takeWhile_append_dropWhile, takeSign_bytes,
            List.takeWhile_append_dropWhile]
        · have hkw := keywordOk_iff.mpr ⟨hne, Nat.not_lt.mp hlen, fun _ => List.mem_takeWhile_imp⟩
          have hds := digitsOk_iff.mpr ⟨Nat.not_lt.mp hcount, fun _ => List.mem_takeWhile_imp⟩
          simp only [Instr.wf, hkw, hds, Bool.and_self]

theorem decodeControlToken_bytes {bs rest : Buffer} {i : Instr} (h : decodeControlToken bs = .ok (i, rest)) :
    (encode i).bytes ++ rest = byteBackslash :: bs ∧ i.wf = true := by
  cases bs with
  | nil => cases h
  | cons c bs =>
    simp only [decodeControlToken] at h
    split at h
    next hletter => exact decodeControlWord_bytes hletter h
    next hsymbol => cases h; exact ⟨rfl, by simpa [Instr.wf] using hsymbol⟩

/-- A syntax element that is read is well-formed and is the bytes read. -/
theorem decodeRtf_bytes {bs rest : Buffer} {i : Instr} (h : decodeRtf bs = .ok (i, rest)) :
    (encode i).bytes ++ rest = bs ∧ i.wf = true := by
  cases bs with
  | nil => cases h
  | cons c bs =>
    simp only [decodeRtf] at h
    split at h
    next hopen => cases h; exact ⟨by rw [hopen]; rfl, rfl⟩
    next hopen =>
      split at h
      next hclose => cases h; exact ⟨by rw [hclose]; rfl, rfl⟩
      next hclose =>
        split at h
        next hback => rw [hback]; exact decodeControlToken_bytes h
        next hback =>
          split at h
          next hbreak => cases h; exact ⟨rfl, hbreak⟩
          next hbreak =>
            cases h
            have hc := isOrdinary_eq_true.mpr ⟨hopen, hclose, hback, Bool.eq_false_iff.mpr hbreak⟩
            have htext : ∀ b ∈ c :: bs.takeWhile isOrdinary, isOrdinary b = true :=
              List.forall_mem_cons.mpr ⟨hc, fun _ => List.mem_takeWhile_imp⟩
            exact ⟨congrArg (c :: ·) List.takeWhile_append_dropWhile, textOk_iff.mpr ⟨List.cons_ne_nil _ _, htext⟩⟩

end Sys2Proof
end

section
/-! CERTIFICATES. Encoding (30_encoding.md, 45_lexer.md section 3): decode and encode agree in every place, and the words written out from
the encoding tables (95_test_vectors.md sections 1.2 and 2.5). -/

namespace Sys2Proof.Machine

/-- Settles O1, by the place that the instruction is read from. -/
theorem decodeOfEncodeGivesTheInstruction : Obligations.DecodeOfEncodeGivesTheInstruction := by
  intro i rest hwf hfollows
  have hoff (hplace : i.place.offStream = true) : decode ((encode i).append rest) = .ok (i, rest) := by
    obtain rfl := follows_offStream hplace hfollows
    rw [Code.append_offStream ((encode_place i).symm ▸ hplace)]
    exact decode_encode_offStream hplace
  cases hplace : i.place with
  | command | record => exact hoff (by rw [hplace]; rfl)
  | header | control | body => exact decode_encode_stream (by rw [hplace]; rfl) hwf rest
  | rtf => exact decode_encode_rtf hplace hwf hfollows

/-- Settles O2, by the place that is read from: a command and a token record are no bytes of a stream, and each stream's decoder takes the
bytes of what it reads. -/
theorem decodedInstructionReencodesToItsBytes : Obligations.DecodedInstructionReencodesToItsBytes := by
  intro c i rest hd
  have hoff (hplace : c.place.offStream = true) : (encode i).bytes ++ rest = c.bytes := by
    have hencoded : (encode i).place.offStream = true := by rwa [encode_place, decode_place hd]
    rw [Code.bytes_offStream hencoded, Code.bytes_offStream hplace, decode_offStream_rest hplace hd, List.nil_append]
  cases c with
  | command c => exact ⟨hoff rfl, fun _ => Instr.wf_of_command (decode_place hd)⟩
  | record r => exact ⟨hoff rfl, fun hnot => absurd rfl (hnot r)⟩
  | header bs =>
    obtain ⟨cs, rs, ct, crc, rfl, rfl⟩ := decodeHeader_bytes hd
    exact ⟨by rw [encode_headerOf]; rfl, fun _ => headerOf_wf cs rs ct crc⟩
  | control bs =>
    obtain ⟨k, rfl, rfl⟩ := decodeControl_ok hd
    exact ⟨rfl, fun _ => rfl⟩
  | body bit w bs => exact (decodeBody_bytes hd).imp_right fun hwf _ => hwf
  | rtf bs => exact (decodeRtf_bytes hd).imp_right fun hwf _ => hwf

/-- Settles O4: the words are the bytes of two reference bodies, a container's header and a control word, each followed by what is left. -/
theorem writtenOutWordsDecode : Obligations.WrittenOutWordsDecode :=
  ⟨decode_refBody 230 0x0AF 3 [], decode_refBody 0x0FA 0x0FA 0 [], decode_container 45 43 tagCompressed 0xA7C7C5F1 [0x03#8],
    decodeRtf_controlWord (kw := [0x66#8, 0x73#8]) (neg := true) (ds := [0x32#8, 0x34#8]) (space := true) rfl rfl, rfl⟩

end Sys2Proof.Machine
end

section
/-! CERTIFICATES. The invariant of the block at reset (70_reset_and_hazards.md rules R230, R231). -/

namespace Sys2Proof.Machine

/-- Settles O9: the tables of engines and lexers are empty, so each part of the invariant is about no entry. -/
theorem resetIsSound : Obligations.ResetIsSound :=
  State.inv_iff.mpr
    { engines := List.forall_mem_nil _
      lexers := List.forall_mem_nil _
      enginesRise := .nil
      lexersRise := .nil
      numbers := List.forall_mem_nil _ }

end Sys2Proof.Machine
end
